-- ==== Sys2Proof/Word.lean ====
section
/-! DEFINITION. The value types of MSD-SEQ (spec 00_scope R11 to R14): every value is an unsigned
bit vector, bit 0 the least significant. The block has no other word type and no signed arithmetic. -/

namespace Sys2Proof

/-- One byte: what the sink and the name source carry (R58, R61). -/
abbrev Byte := BitVec 8

/-- One packed pixel word of the pixel memory (R51, R53): `PIX_BITS` = 16. -/
abbrev Pixel := BitVec 16

/-- One request word `REQ[10:0] = op[2:0], arg[7:0]` (R80). -/
abbrev ReqWord := BitVec 11

end Sys2Proof
end

