-- ==== Sys2Proof/Config.lean ====
section
/-! DEFINITION. The implementation parameters of spec 00_scope R11. Values the spec fixes are plain
definitions; values it leaves OPEN are opaque constants, so that no proof can see a value of them;
the header fields that are open WITH a default are the structure `HdrParams`, which the state
carries, so that every statement about a state holds for every choice of them. -/

namespace Sys2Proof

/-- `IMG_W` = `IMG_H` = 32 (R11). -/
def Config.imgSide : Nat := 32

/-- `HDR_LEN` = 54 (R11). -/
def Config.hdrLen : Nat := 54

/-- `PIX_BYTES` = 32·32·3 = 3072 (R11). -/
def Config.pixBytes : Nat := 3072

/-- `CHUNK_BYTES` = 2, not configurable (R11, R202). -/
def Config.chunkBytes : Nat := 2

/-- `N_GROUPS` = `PIX_BYTES` / `CHUNK_BYTES` = 1536 (R11). -/
def Config.nGroups : Nat := 1536

/-- The number of frames of one WRITEBMP: 3 + 3·1536 + 3 (R30, R196). -/
def Config.nWriteFrames : Nat := 4614

/-- `SETTLE_LEN_MS` = `SETTLE_MS(0x3C)`, OPEN (R11, decision D12; log 4). -/
opaque Config.settleLenMs : Nat

/-- `SETTLE_WR_MS` = `SETTLE_MS(0x2D)`, OPEN (R11, decision D12; log 4). -/
opaque Config.settleWrMs : Nat

/-- `SETTLE_PTR_MS` = `SETTLE_MS(0x3D)`, OPEN (R11, decision D12; log 4). -/
opaque Config.settlePtrMs : Nat

/-- One less than `CYCLES_PER_MS`: the OPEN parameter is a positive natural (R11, decision D11; log 4). -/
opaque Config.cyclesPerMsPred : Nat

/-- `CYCLES_PER_MS`, an OPEN positive natural (R11, decision D11; log 4). -/
def Config.cyclesPerMs : Nat := Config.cyclesPerMsPred + 1

/-- The header fields R186 takes as parameters (decision D16); each field's default is R11's. -/
structure HdrParams where
  /-- `HDR_RESERVED` (offset 6). -/
  reserved : BitVec 32 := 0
  /-- `HDR_SIZEIMAGE` (offset 34). -/
  sizeImage : BitVec 32 := 3072
  /-- `HDR_XPPM` (offset 38). -/
  xppm : BitVec 32 := 0
  /-- `HDR_YPPM` (offset 42). -/
  yppm : BitVec 32 := 0
  /-- `HDR_CLRUSED` (offset 46). -/
  clrUsed : BitVec 32 := 0
  /-- `HDR_CLRIMPORTANT` (offset 50). -/
  clrImportant : BitVec 32 := 0
  deriving DecidableEq, Repr

end Sys2Proof
end

