-- ==== Sys2Proof/Syntax.lean ====
section
/-! DEFINITION. What the block executes, one constructor per row of spec/opcode_table.json: the eight
request rows (30_encoding R80, R81; the host presents them on the request port) and the nine frame
rows (R86; the block's own frame programs name them, R30, and each is run by the Command Primitive,
R110). A request carries its whole `arg` byte, also where the spec ignores it (R82). A frame row
carries no operand: its parameters come from the block's state (R87; Machine/Operands.lean). -/

namespace Sys2Proof

inductive Instr where
  /-- Row RESV_OP0: the reserved request encoding (R83, R233). -/
  | resvOp0 (arg : Byte)
  /-- Row RESET (R133). -/
  | reset (arg : Byte)
  /-- Row USBMODE (R136). -/
  | usbmode (arg : Byte)
  /-- Row MOUNT (R139). -/
  | mount (arg : Byte)
  /-- Row CREATE (R142). -/
  | create (arg : Byte)
  /-- Row NAME (R145). -/
  | name (arg : Byte)
  /-- Row WRITEBMP (R180). -/
  | writebmp (arg : Byte)
  /-- Row CLOSE: the arg is the close-mode byte (R220). -/
  | close (mode : Byte)
  /-- Row F_RESET: frame opcode 0x05 (R86). -/
  | fReset
  /-- Row F_SET_MODE: frame opcode 0x15 (R86). -/
  | fSetMode
  /-- Row F_MOUNT: frame opcode 0x31 (R86). -/
  | fMount
  /-- Row F_CREATE: frame opcode 0x34 (R86). -/
  | fCreate
  /-- Row F_SET_FILENAME: frame opcode 0x2F (R86). -/
  | fSetFilename
  /-- Row F_DECLARE_LEN: frame opcode 0x3C (R86). -/
  | fDeclareLen
  /-- Row F_WRITE_DATA: frame opcode 0x2D (R86). -/
  | fWriteData
  /-- Row F_UPDATE_PTR: frame opcode 0x3D (R86). -/
  | fUpdatePtr
  /-- Row F_CLOSE: frame opcode 0x36 (R86). -/
  | fClose
  deriving DecidableEq, Repr

/-- A command frame `Frame(op, params)` (R15). -/
structure Frame where
  op : Byte
  params : List Byte
  deriving DecidableEq, Repr

/-- The three channels of a packed pixel (R162); a fourth selector value is no channel (R164). -/
inductive Channel where
  | blue | green | red
  deriving DecidableEq, Repr

/-- The codings an instruction has: a request word on the request port (R80), or the first bytes of
a frame on the wire (R84). -/
inductive Encoding where
  | word (w : Nat)
  | wire (bytes : List Byte)
  deriving DecidableEq, Repr

end Sys2Proof
end

