-- ==== Sys2Proof/WellFormed.lean ====
section
/-! DEFINITION. What is well formed. An `Instr` is well formed as it stands: its only operand is a whole
byte, and every 11-bit word is a request (R82, R83). The checks are on what comes from outside the
type: a request word as a number (R80), a frame with its parameters (R84 to R87), and a list of
frames, in which each write-data payload has the length just declared (R201). -/

namespace Sys2Proof

/-- R82, R83: every request op with every arg byte is a request word, and a frame row has no operand. -/
def Instr.wf : Instr → Bool
  | .resvOp0 _ => true
  | .reset _ => true
  | .usbmode _ => true
  | .mount _ => true
  | .create _ => true
  | .name _ => true
  | .writebmp _ => true
  | .close _ => true
  | .fReset => true
  | .fSetMode => true
  | .fMount => true
  | .fCreate => true
  | .fSetFilename => true
  | .fDeclareLen => true
  | .fWriteData => true
  | .fUpdatePtr => true
  | .fClose => true

/-- A request word is 11 bits wide (R80). -/
def wordWf (w : Nat) : Bool := w < 2048

/-- A name as the host offers it: no 0x00 byte inside (R145). -/
def nameWf (name : List Byte) : Bool := name.all (fun b => b != 0)

/-- The parameters of the set-filename frame: the marker 0x2F, the name, the terminating 0x00 (R87). -/
def filenameParamsWf : List Byte → Bool
  | [] => false
  | m :: rest => m == 0x2F && rest.getLast? == some 0 && nameWf rest.dropLast

/-- The frames the block can emit (R86, R87): one of the nine opcodes, with that opcode's parameters. -/
def Frame.wf (f : Frame) : Bool :=
  match f.op.toNat with
  | 0x05 => f.params == []
  | 0x15 => f.params == [0x06]
  | 0x31 => f.params == []
  | 0x34 => f.params == []
  | 0x2F => filenameParamsWf f.params
  | 0x3C => f.params == [54, 0] || f.params == [2, 0]
  | 0x2D => f.params.length == 54 || f.params.length == 2
  | 0x3D => f.params == []
  | 0x36 => f.params.length == 1
  | _ => false

/-- The length a frame declares for the frame right after it: the little-endian parameter of 0x3C
(R64, R85), and nothing (0) for every other opcode. -/
def Frame.declares (f : Frame) : Nat :=
  if f.op = 0x3C then
    match f.params with
    | [lo, hi] => lo.toNat + 256 * hi.toNat
    | _ => 0
  else 0

/-- A list of frames the block can emit, `declared` being the length the frame before it declared:
each frame well formed, and each write-data payload as long as declared (R201). -/
def framesWf (declared : Nat) : List Frame → Bool
  | [] => true
  | f :: fs =>
    f.wf && (f.op != 0x2D || f.params.length == declared) && framesWf f.declares fs

end Sys2Proof
end

