-- ==== Sys2Proof/Decode.lean ====
section
/-! DEFINITION. Decoding and encoding (spec 30_encoding). Request words: 11 bits, op in bits 10:8 and
arg in bits 7:0 (R80, R81). Frames: `57 AB op params` (R84, R86), a table row being matched on its
first three bytes on the wire. The block itself never decodes a frame (R85); the frame decoder below
is the observer's, who splits the trace into frames. -/

namespace Sys2Proof

/-- Why a coding is rejected. -/
inductive DecodeError where
  /-- A request word of more than 11 bits (R80). -/
  | wideWord
  /-- Fewer than the three bytes every frame has (R84). -/
  | shortFrame
  /-- The first two bytes are not 57 AB (R84). -/
  | badHead
  /-- The third byte is none of the nine opcodes (R86, R89). -/
  | badOpcode
  deriving DecidableEq, Repr

/-- What the decoder answers: an instruction and the bytes after its head, or a named rejection. -/
inductive Decoded where
  | instr (i : Instr) (rest : List Byte)
  | rejected (why : DecodeError)
  deriving DecidableEq, Repr

/-- `REQ[10:8]` (R80). -/
def reqOp (w : ReqWord) : BitVec 3 := w.extractLsb' 8 3

/-- `REQ[7:0]` (R80). -/
def reqArg (w : ReqWord) : Byte := w.extractLsb' 0 8

/-- The request of an op and an arg (R81); total, since every op code has a row (R83). -/
def requestOf (op : BitVec 3) (arg : Byte) : Instr :=
  match op.toNat with
  | 0 => .resvOp0 arg
  | 1 => .reset arg
  | 2 => .usbmode arg
  | 3 => .mount arg
  | 4 => .create arg
  | 5 => .name arg
  | 6 => .writebmp arg
  | _ => .close arg

/-- Every 11-bit word is a request (R83). -/
def decodeRequest (w : ReqWord) : Instr := requestOf (reqOp w) (reqArg w)

/-- The nine frame opcodes (R86). -/
def frameInstr (op : Byte) : Option Instr :=
  match op.toNat with
  | 0x05 => some .fReset
  | 0x15 => some .fSetMode
  | 0x31 => some .fMount
  | 0x34 => some .fCreate
  | 0x2F => some .fSetFilename
  | 0x3C => some .fDeclareLen
  | 0x2D => some .fWriteData
  | 0x3D => some .fUpdatePtr
  | 0x36 => some .fClose
  | _ => none

/-- A frame row, matched on its first three bytes on the wire (R84, R86). -/
def decodeHead : List Byte → Decoded
  | a :: b :: op :: rest =>
    if a = 0x57 ∧ b = 0xAB then
      match frameInstr op with
      | some i => .instr i rest
      | none => .rejected .badOpcode
    else .rejected .badHead
  | _ => .rejected .shortFrame

/-- The decoder, total on both codings. -/
def decode : Encoding → Decoded
  | .word w => if wordWf w then .instr (decodeRequest (BitVec.ofNat 11 w)) [] else .rejected .wideWord
  | .wire bytes => decodeHead bytes

/-- A request word from its op and arg (R80, R90). -/
def encodeRequest (op : BitVec 3) (arg : Byte) : ReqWord := op ++ arg

/-- The first three bytes of a frame (R84). -/
def frameHead (op : Byte) : List Byte := [0x57, 0xAB, op]

/-- The encoder: a request row's word (R81), a frame row's first three bytes (R86). -/
def encode : Instr → Encoding
  | .resvOp0 arg => .word (encodeRequest 0 arg).toNat
  | .reset arg => .word (encodeRequest 1 arg).toNat
  | .usbmode arg => .word (encodeRequest 2 arg).toNat
  | .mount arg => .word (encodeRequest 3 arg).toNat
  | .create arg => .word (encodeRequest 4 arg).toNat
  | .name arg => .word (encodeRequest 5 arg).toNat
  | .writebmp arg => .word (encodeRequest 6 arg).toNat
  | .close mode => .word (encodeRequest 7 mode).toNat
  | .fReset => .wire (frameHead 0x05)
  | .fSetMode => .wire (frameHead 0x15)
  | .fMount => .wire (frameHead 0x31)
  | .fCreate => .wire (frameHead 0x34)
  | .fSetFilename => .wire (frameHead 0x2F)
  | .fDeclareLen => .wire (frameHead 0x3C)
  | .fWriteData => .wire (frameHead 0x2D)
  | .fUpdatePtr => .wire (frameHead 0x3D)
  | .fClose => .wire (frameHead 0x36)

/-- `Bytes(Frame(op, params)) = [0x57, 0xAB, op] ++ params` (R15, R84). -/
def Frame.bytes (f : Frame) : List Byte := frameHead f.op ++ f.params

/-- The first `n` bytes and the rest, where there are as many. -/
def takeExactly (n : Nat) (bytes : List Byte) : Option (List Byte × List Byte) :=
  if n ≤ bytes.length then some (bytes.take n, bytes.drop n) else none

/-- The bytes up to and including the first 0x00, and the rest (R85, R146). -/
def takeThroughZero : List Byte → Option (List Byte × List Byte)
  | [] => none
  | b :: bs =>
    if b = 0 then some ([b], bs)
    else (takeThroughZero bs).map (fun r => (b :: r.1, r.2))

/-- The parameters of a frame as an observer finds them (R85), `declared` being the length declared
by the frame right before it. -/
def splitParams (declared : Nat) (op : Byte) (bytes : List Byte) :
    Option (List Byte × List Byte) :=
  match op.toNat with
  | 0x05 => some ([], bytes)
  | 0x31 => some ([], bytes)
  | 0x34 => some ([], bytes)
  | 0x3D => some ([], bytes)
  | 0x15 => takeExactly 1 bytes
  | 0x36 => takeExactly 1 bytes
  | 0x3C => takeExactly 2 bytes
  | 0x2D => takeExactly declared bytes
  | 0x2F =>
    match bytes with
    | m :: rest => (takeThroughZero rest).map (fun r => (m :: r.1, r.2))
    | [] => none
  | _ => none

/-- One frame off the front of a trace, and the rest (R84, R85). -/
def splitFrame (declared : Nat) : List Byte → Option (Frame × List Byte)
  | a :: b :: op :: rest =>
    if a = 0x57 ∧ b = 0xAB then
      (splitParams declared op rest).map (fun r => (⟨op, r.1⟩, r.2))
    else none
  | _ => none

/-- At most `fuel` frames off the front of a trace, and the bytes left over: an unfinished frame at
the end, as a block reset can leave it (R89, R271). -/
def splitFrames : Nat → Nat → List Byte → List Frame × List Byte
  | 0, _, bytes => ([], bytes)
  | fuel + 1, declared, bytes =>
    match splitFrame declared bytes with
    | none => ([], bytes)
    | some (f, rest) =>
      let more := splitFrames fuel f.declares rest
      (f :: more.1, more.2)

/-- The observer's reading of a whole trace (R85). -/
def splitTrace (trace : List Byte) : List Frame × List Byte := splitFrames trace.length 0 trace

/-- A frame row's first three bytes as one number, byte 0 the most significant of 24 bits
(spec/opcode_table.json), back to bytes in wire order. -/
def headBytes (w : Nat) : List Byte :=
  [BitVec.ofNat 8 (w / 65536), BitVec.ofNat 8 (w / 256), BitVec.ofNat 8 w]

/-- The coding a word of spec/opcode_table.json stands for: rows of up to 16 bits are request words,
longer ones frame rows. -/
def tableEncoding (nbits w : Nat) : Encoding :=
  if nbits ≤ 16 then .word w else .wire (if w < 16777216 then headBytes w else [])

/-- The instruction the decoder reads from a word numbered as the opcode table numbers it. -/
def decodeTableWord (nbits w : Nat) : Option Instr :=
  match decode (tableEncoding nbits w) with
  | .instr i _ => some i
  | .rejected _ => none

end Sys2Proof
end

