-- ==== Sys2Proof/Machine/State.lean ====
section
/-! DEFINITION. The state of MSD-SEQ: the block's registers (10_state R20 to R38), the two constant
stores it reads (the header parameters, R33; the pixel memory, R51), and, as plain data, the agents
outside it whose moves a step answers (20_memory R50, R58, R61, R62): the host's waiting requests, the
name source's bytes, the input levels with the changes still to come, and the output trace. -/

namespace Sys2Proof.Machine

/-- The session states of R21, in order; `Session.code` gives the 3-bit register value. -/
inductive Session where
  /-- 0: no command sent in this session. -/
  | idle
  /-- 1: device reset frame issued (not a reset of the block, R134). -/
  | reset
  /-- 2: set-USB-mode frame issued. -/
  | usbMode
  /-- 3: mount frame issued. -/
  | diskMounted
  /-- 4: create-file frame issued. -/
  | fileCreated
  /-- 5: set-filename frame issued. -/
  | fileNamed
  /-- 6: BMP stream in progress or finished. -/
  | writing
  /-- 7: close-file frame issued. -/
  | closed
  deriving DecidableEq, Repr

/-- The cause codes of R25 and R232. -/
inductive Cause where
  /-- 0: no refusal since block reset. -/
  | noCause
  /-- 1: `ILLEGAL_OP`. -/
  | illegalOp
  /-- 2: `OUT_OF_ORDER`. -/
  | outOfOrder
  /-- 3: `AFTER_CLOSE`. -/
  | afterClose
  deriving DecidableEq, Repr

/-- `ph` of R29: the frame is being sent, or its settle wait runs. -/
inductive Phase where
  | send | settle
  deriving DecidableEq, Repr

/-- The sequence position `pos = (fi, bi, ph)` (R29). -/
structure Pos where
  /-- Index of the current frame in the operation's frame program. -/
  fi : Nat
  /-- Bytes of that frame already accepted by the sink. -/
  bi : Nat
  ph : Phase
  deriving DecidableEq, Repr

/-- The input levels at one clock edge (R58, R61, R62, R270). The words and bytes that go with
`reqValid` and `nmValid` are the heads of `State.reqs` and `State.names`. -/
structure Inputs where
  /-- `rst`, synchronous and active high (R270). -/
  rst : Bool
  /-- The host drives `req_valid` when it has a request waiting (R62). -/
  reqValid : Bool
  /-- `tx_ready` (R58). -/
  txReady : Bool
  /-- The name source drives `nm_valid` when it has a byte left (R61). -/
  nmValid : Bool
  deriving DecidableEq, Repr

/-- The pixel memory's contents as (address, byte) pairs, addresses strictly rising and no entry equal
to what an unlisted address reads as (`Memory.wf`, Machine/Memory.lean). -/
abbrev Memory := List Host.Cell

structure State where
  /-- `st` (R21). -/
  st : Session
  /-- `busy` (R23). -/
  busy : Bool
  /-- `err`, sticky (R24). -/
  err : Bool
  /-- `ecause`, the first cause (R25). -/
  ecause : Cause
  /-- `cur_op` (R27). -/
  curOp : BitVec 3
  /-- `mode_q` (R28). -/
  modeQ : Byte
  /-- `pos` (R29). -/
  pos : Pos
  /-- `settle_cnt`, in clock cycles (R31); the model runs the whole wait as one step (R290). -/
  settleCnt : Nat
  /-- The byte taken from the name source and not yet accepted by the sink: `tx_data` while it is
  offered (R58, R145, R271; log 6). -/
  nmQ : Option Byte
  /-- The build-time header parameters (R33, R186); no step writes them. -/
  hdr : HdrParams
  /-- The pixel memory (R51); no step writes it (R54). -/
  mem : Memory
  /-- The input levels at the coming clock edge. -/
  inp : Inputs
  /-- The levels of the edges after it, in order; when it is empty the levels stay as they are. -/
  sched : List Inputs
  /-- The requests the host has still to present, the next one first (R62, R90). -/
  reqs : List ReqWord
  /-- The bytes the name source has still to offer, the next one first (R61). -/
  names : List Byte
  /-- The output trace `T` since the last block reset (R16). -/
  trace : List Byte
  /-- The bytes the sink had accepted before the last block reset (R68, R271; log 7). -/
  sunk : List Byte
  /-- The model's own count: clock cycles of finished settle waits since the last block reset
  (R292; log 8). -/
  waited : Nat
  deriving DecidableEq, Repr

/-- Why the machine stops with a fault. -/
inductive Fault where
  /-- Raised by every frame meaning and by `step` when `busy = 1` and `pos` names no frame, or no byte
  of the frame being sent. The spec keeps `pos` inside the frame program (R29, R30), so no run from
  reset meets it. Safe: the model stops in states the block has not. -/
  | badPosition
  deriving DecidableEq, Repr

/-- Why an instruction is refused a meaning. -/
inductive Refusal where
  /-- Raised by no instruction: every arm of `exec` has its meaning. Safe. -/
  | notModelled (mnemonic : String)
  /-- Raised by a frame meaning when that frame is not the one the frame program has at `pos`: the
  spec gives a frame an effect only at its place (R30, R89, R110). Safe: `step` never asks for it (log 5). -/
  | frameNotDue
  deriving DecidableEq, Repr

/-- The machine after block reset: R37's value for every element of the block, the header parameters
at their defaults (R11), and an environment at rest that is willing to move (log 1, 2, 9, 15). -/
def State.reset : State where
  st := .idle
  busy := false
  err := false
  ecause := .noCause
  curOp := 0
  modeQ := 0
  pos := ⟨0, 0, .send⟩
  settleCnt := 0
  nmQ := none
  hdr := {}
  mem := []
  inp := ⟨false, true, true, true⟩
  sched := []
  reqs := []
  names := []
  trace := []
  sunk := []
  waited := 0

end Sys2Proof.Machine
end

