-- ==== Sys2Proof/Machine/Header.lean ====
section
/-! DEFINITION. The header ROM (10_state R33; 43_bmp_stream_writer R185 to R189): 54 bytes, its multi-byte
fields little-endian (R65), and the byte-order helpers of R13. -/

namespace Sys2Proof.Machine

/-- `lo8(v) = v[7:0]` (R13). -/
def lo8 (v : BitVec 16) : Byte := v.extractLsb' 0 8

/-- `hi8(v) = v[15:8]` (R13). -/
def hi8 (v : BitVec 16) : Byte := v.extractLsb' 8 8

/-- A 16-bit field, little-endian (R65). -/
def le16 (v : BitVec 16) : List Byte := [lo8 v, hi8 v]

/-- A 32-bit field, little-endian (R65). -/
def le32 (v : BitVec 32) : List Byte :=
  [v.extractLsb' 0 8, v.extractLsb' 8 8, v.extractLsb' 16 8, v.extractLsb' 24 8]

/-- The ROM's 54 bytes, field by field as R186's table lists them. -/
def hdrRom (h : HdrParams) : List Byte :=
  [0x42, 0x4D]                -- 0: signature "BM"
    ++ le32 3128              -- 2: file size, the trailer included
    ++ le32 h.reserved        -- 6
    ++ le32 54                -- 10: pixel-data offset
    ++ le32 40                -- 14: info-header size
    ++ le32 32                -- 18: width
    ++ le32 32                -- 22: height, positive: bottom-up
    ++ le16 1                 -- 26: planes
    ++ le16 24                -- 28: bits per pixel
    ++ le32 0                 -- 30: compression: none
    ++ le32 h.sizeImage       -- 34
    ++ le32 h.xppm            -- 38
    ++ le32 h.yppm            -- 42
    ++ le32 h.clrUsed         -- 46
    ++ le32 h.clrImportant    -- 50

end Sys2Proof.Machine
end

