-- ==== Sys2Proof/Machine/Memory.lean ====
section
/-! DEFINITION. The pixel memory (20_memory R51, R52, R67, R69): 1024 words of 16 bits, index
`{row[4:0], col[4:0]}`, every index a pixel. The block only reads it, one whole word at a time. The
model keeps it as bytes, the word of index `a` at addresses `2a` (bits 7:0) and `2a + 1` (bits 15:8);
the block cannot see that layout (R51: only `M[row][col]` is normative; log 3). -/

namespace Sys2Proof.Machine

/-- What a byte nothing has listed reads as. The spec leaves the value open (R280, U13); the model
takes 0 (DESIGN CHOICE, log 2). -/
def unlistedByte : Byte := 0

/-- The bytes of the pixel memory: 1024 words of two bytes. -/
def memBytes : Nat := 2048

/-- The byte at an address of the model's layout. -/
def Memory.readByte : Memory → Nat → Byte
  | [], _ => unlistedByte
  | (k, v) :: rest, a => if k = a then v else Memory.readByte rest a

/-- Writes one byte and keeps the canonical form: the byte an unlisted address reads as is not listed. -/
def Memory.writeByte : Memory → Nat → Byte → Memory
  | [], a, b => if b = unlistedByte then [] else [(a, b)]
  | (k, v) :: rest, a, b =>
    if a < k then
      if b = unlistedByte then (k, v) :: rest else (a, b) :: (k, v) :: rest
    else if a = k then
      if b = unlistedByte then rest else (k, b) :: rest
    else (k, v) :: Memory.writeByte rest a b

/-- The canonical form from address `lo` on: addresses strictly rising and inside the memory, and no
entry equal to what an unlisted address reads as. -/
def Memory.wfFrom (lo : Nat) : Memory → Bool
  | [] => true
  | (k, v) :: rest =>
    decide (lo ≤ k) && decide (k < memBytes) && (v != unlistedByte) && Memory.wfFrom (k + 1) rest

/-- The canonical form. -/
def Memory.wf (m : Memory) : Bool := Memory.wfFrom 0 m

/-- The pixel index `a = row·32 + col = {row, col}` (R51). -/
def pixelIndex (row col : BitVec 5) : BitVec 10 := row ++ col

/-- `MemRead(a, 2)` (R52): one whole pixel word, with no side effect. -/
def Memory.readPixel (m : Memory) (a : BitVec 10) : Pixel :=
  Memory.readByte m (2 * a.toNat + 1) ++ Memory.readByte m (2 * a.toNat)

/-- The host's write of one pixel word, before the run starts (R280). The block writes no memory
(R14: `MemWrite` is never used), and no step calls this. -/
def Memory.writePixel (m : Memory) (a : BitVec 10) (p : Pixel) : Memory :=
  Memory.writeByte (Memory.writeByte m (2 * a.toNat) (p.extractLsb' 0 8)) (2 * a.toNat + 1)
    (p.extractLsb' 8 8)

end Sys2Proof.Machine
end

