-- ==== Sys2Proof/Machine/Scaler.lean ====
section
/-! DEFINITION. The channel scaler (42_channel_scaler R160 to R168) and the traversal of the matrix that
drives it (43_bmp_stream_writer R191 to R194): pure functions, with no state of their own. -/

namespace Sys2Proof.Machine

/-- The channel selector's value (R162). -/
def Channel.sel : Channel → Nat
  | .blue => 0
  | .green => 1
  | .red => 2

/-- The channel a selector value names; 3 names none (R164). -/
def channelOf (c : Nat) : Option Channel :=
  match c with
  | 0 => some .blue
  | 1 => some .green
  | 2 => some .red
  | _ => none

/-- The channel's 4-bit lane, `(p >> 4c) & 0x0F` (R161, R162, R168). -/
def nibble (p : Pixel) (c : Channel) : BitVec 4 := (p >>> (4 * Channel.sel c)).setWidth 4

/-- `Scale(p, c) = nib * 17`, exact in eight bits (R161, R163). -/
def scale (p : Pixel) (c : Channel) : Byte := (nibble p c).setWidth 8 * 17

/-- `Scale` as a function of a 2-bit selector: it refuses 3 (R164). -/
def scaleSel (p : Pixel) (c : BitVec 2) : Option Byte := (channelOf c.toNat).map (scale p)

/-- `Extract(M, row, col, c) = Scale(M[row][col], c)`, with unbounded indices: it refuses a row or a
column of 32 or more, and never returns a value for one (R167). -/
def extract (m : Memory) (row col : Nat) (c : Channel) : Option Byte :=
  if row < 32 ∧ col < 32 then
    some (scale (Memory.readPixel m (pixelIndex (BitVec.ofNat 5 row) (BitVec.ofNat 5 col))) c)
  else none

/-- A place in the pixel stream: the position `(x, y)` and the channel (R191, R197: 5-bit counters). -/
structure Place where
  x : BitVec 5
  y : BitVec 5
  c : Channel
  deriving DecidableEq, Repr

/-- The place of stream byte `s`: `y = s div 96`, `x = (s mod 96) div 3`, `c = s mod 3` (R191). -/
def placeOf (s : Nat) : Place where
  x := BitVec.ofNat 5 (s % 96 / 3)
  y := BitVec.ofNat 5 (s / 96)
  c := match s % 3 with
    | 0 => .blue
    | 1 => .green
    | _ => .red

/-- The counter form of R191: after red, `x` advances; at `x = 31` it wraps and `y` advances. -/
def Place.succ (p : Place) : Place :=
  match p.c with
  | .blue => { p with c := .green }
  | .green => { p with c := .red }
  | .red => { x := p.x + 1, y := if p.x = 31 then p.y + 1 else p.y, c := .blue }

/-- The pixel index a place reads: `M[row = y][col = x]` (R55, R192). -/
def Place.index (p : Place) : BitVec 10 := pixelIndex p.y p.x

/-- `PixByte(M, s)` (R193). -/
def pixByte (m : Memory) (s : Nat) : Byte :=
  scale (Memory.readPixel m (placeOf s).index) (placeOf s).c

end Sys2Proof.Machine
end

