-- ==== Sys2Proof/Machine/Operands.lean ====
section
/-! DEFINITION. Where the operands of an operation come from: the parameters of each frame (30_encoding
R87), the place a frame has in its operation's frame program (10_state R30; 43_bmp_stream_writer
R190), and the settle time that follows it (30_encoding R86). -/

namespace Sys2Proof.Machine

/-- The 3-bit value of a session state (R21). -/
def Session.code : Session → BitVec 3
  | .idle => 0
  | .reset => 1
  | .usbMode => 2
  | .diskMounted => 3
  | .fileCreated => 4
  | .fileNamed => 5
  | .writing => 6
  | .closed => 7

/-- The session state of a 3-bit value (R21). -/
def sessionOf (code : BitVec 3) : Session :=
  match code.toNat with
  | 0 => .idle
  | 1 => .reset
  | 2 => .usbMode
  | 3 => .diskMounted
  | 4 => .fileCreated
  | 5 => .fileNamed
  | 6 => .writing
  | _ => .closed

/-- The three parts of the write program (R32). -/
inductive WritePhase where
  | hdr | pix | trl
  deriving DecidableEq, Repr

/-- `wph` of R32, from the frame index of R190. -/
def wphOf (fi : Nat) : WritePhase :=
  if fi < 3 then .hdr else if fi < 3 + 3 * Config.nGroups then .pix else .trl

/-- `k` of R32: the group whose triple holds frame `fi` (R190). -/
def groupOf (fi : Nat) : Nat := (fi - 3) / 3

/-- The frame the frame program of request op `op` has at index `fi` (R30). -/
def frameAt (op : BitVec 3) (fi : Nat) : Option Instr :=
  match op.toNat with
  | 1 => if fi = 0 then some .fReset else none
  | 2 => if fi = 0 then some .fSetMode else none
  | 3 => if fi = 0 then some .fMount else none
  | 4 => if fi = 0 then some .fCreate else none
  | 5 => if fi = 0 then some .fSetFilename else none
  | 6 =>
    if fi < Config.nWriteFrames then
      match fi % 3 with
      | 0 => some .fDeclareLen
      | 1 => some .fWriteData
      | _ => some .fUpdatePtr
    else none
  | 7 => if fi = 0 then some .fClose else none
  | _ => none

/-- The frame that is due: the one at `pos.fi` of the operation in progress (R29, R30). -/
def State.due (s : State) : Option Instr := if s.busy then frameAt s.curOp s.pos.fi else none

/-- `SETTLE_MS(op)` (R11, R86); the close frame's is 0 (R220, conflict C1). -/
def settleMs (op : Byte) : Nat :=
  match op.toNat with
  | 0x05 => 200
  | 0x15 => 20
  | 0x31 => 2000
  | 0x34 => 2000
  | 0x2F => 20
  | 0x3C => Config.settleLenMs
  | 0x2D => Config.settleWrMs
  | 0x3D => Config.settlePtrMs
  | _ => 0

/-- The cycles a settle wait lasts: `SETTLE_MS(op) × CYCLES_PER_MS` (R31, R113). -/
def settleCycles (op : Byte) : Nat := settleMs op * Config.cyclesPerMs

/-- `Frame(0x05, [])` (R133). -/
def resetFrame : Frame := ⟨0x05, []⟩

/-- `Frame(0x15, [0x06])`: the mode byte is always 0x06 (R136, R137). -/
def setModeFrame : Frame := ⟨0x15, [0x06]⟩

/-- `Frame(0x31, [])` (R139). -/
def mountFrame : Frame := ⟨0x31, []⟩

/-- `Frame(0x34, [])`: it carries no filename (R142). -/
def createFrame : Frame := ⟨0x34, []⟩

/-- The bytes of the set-filename frame before the name: prefix, opcode, marker (R145). -/
def nameLead : List Byte := [0x57, 0xAB, 0x2F, 0x2F]

/-- `Frame(0x2F, [0x2F] ++ name ++ [0x00])`, for a name known as a whole (R30, R87). -/
def filenameFrame (name : List Byte) : Frame := ⟨0x2F, [0x2F] ++ name ++ [0x00]⟩

/-- The length the declare frame of a triple declares: 54 for the header, 2 for every group and for
the trailer (R87, R181, R190). -/
def declaredLen (fi : Nat) : BitVec 16 :=
  match wphOf fi with
  | .hdr => 54
  | .pix => 2
  | .trl => 2

/-- `Frame(0x3C, [lo8(n), hi8(n)])` (R64, R181). -/
def declareFrame (n : BitVec 16) : Frame := ⟨0x3C, [lo8 n, hi8 n]⟩

/-- The payload of the write frame at `fi`: the header ROM, group `k`'s stream bytes `2k` and
`2k + 1`, or the trailer's two zeros (R190, R194, R195). -/
def writePayload (h : HdrParams) (m : Memory) (fi : Nat) : List Byte :=
  match wphOf fi with
  | .hdr => hdrRom h
  | .pix => [pixByte m (2 * groupOf fi), pixByte m (2 * groupOf fi + 1)]
  | .trl => [0x00, 0x00]

/-- `Frame(0x2D, data)` (R181). -/
def writeFrame (data : List Byte) : Frame := ⟨0x2D, data⟩

/-- `Frame(0x3D, [])` (R181). -/
def updateFrame : Frame := ⟨0x3D, []⟩

/-- `Frame(0x36, [mode_q])` (R221). -/
def closeFrame (mode : Byte) : Frame := ⟨0x36, [mode]⟩

/-- The frame an instruction row emits in a state; none for a request, and none for the set-filename
frame, whose name is not in the state but streamed (R112, R145). -/
def frameOf (i : Instr) (s : State) : Option Frame :=
  match i with
  | .fReset => some resetFrame
  | .fSetMode => some setModeFrame
  | .fMount => some mountFrame
  | .fCreate => some createFrame
  | .fSetFilename => none
  | .fDeclareLen => some (declareFrame (declaredLen s.pos.fi))
  | .fWriteData => some (writeFrame (writePayload s.hdr s.mem s.pos.fi))
  | .fUpdatePtr => some updateFrame
  | .fClose => some (closeFrame s.modeQ)
  | .resvOp0 _ => none
  | .reset _ => none
  | .usbmode _ => none
  | .mount _ => none
  | .create _ => none
  | .name _ => none
  | .writebmp _ => none
  | .close _ => none

end Sys2Proof.Machine
end

