-- ==== Sys2Proof/Machine/Flags.lean ====
section
/-! DEFINITION. The levels the block drives and the flags it keeps: the status outputs (10_state R26),
the handshake outputs (20_memory R58, R61, R62), the outcome of a request (60_exceptions R234) and the
block's only exceptional event, the refusal of a request (R231). -/

namespace Sys2Proof.Machine

/-- The 2-bit value of a cause (R25, R232). -/
def Cause.code : Cause → BitVec 2
  | .noCause => 0
  | .illegalOp => 1
  | .outOfOrder => 2
  | .afterClose => 3

/-- `st_o[2:0] = st` (R26). -/
def State.stO (s : State) : BitVec 3 := Session.code s.st

/-- `busy_o = busy` (R26). -/
def State.busyO (s : State) : Bool := s.busy

/-- `err_o = err` (R26). -/
def State.errO (s : State) : Bool := s.err

/-- `ecause_o[1:0] = ecause` (R26). -/
def State.ecauseO (s : State) : BitVec 2 := Cause.code s.ecause

/-- `req_ready = NOT busy`, forced to 0 while `rst = 1` (R26, R62, R272). -/
def State.reqReady (s : State) : Bool := !s.busy && !s.inp.rst

/-- `req_valid` together with the request word on the port (R62). -/
def State.reqOffer (s : State) : Option ReqWord := if s.inp.reqValid then s.reqs.head? else none

/-- The byte the block offers to the sink, `none` when `tx_valid = 0` (R58): while a frame is sent,
the byte at `bi`; in the set-filename frame, after its four leading bytes, the byte taken from the
name source (R145). No byte is offered during a settle wait (R113), when idle, or under reset (R272). -/
def State.txOffer (s : State) : Option Byte :=
  if s.inp.rst then none
  else
    match s.pos.ph with
    | .settle => none
    | .send =>
      match s.due with
      | none => none
      | some .fSetFilename => if s.pos.bi < 4 then nameLead[s.pos.bi]? else s.nmQ
      | some i => (frameOf i s).bind (fun f => f.bytes[s.pos.bi]?)

/-- `tx_valid` (R58). -/
def State.txValid (s : State) : Bool := s.txOffer.isSome

/-- `nm_ready`: 1 only in a NAME operation while the block waits in `NmByte()` (R61, R145, R272). -/
def State.nmReady (s : State) : Bool :=
  !s.inp.rst && s.due == some .fSetFilename && s.pos.ph == .send && decide (4 ≤ s.pos.bi)
    && s.nmQ.isNone

/-- `nm_valid` together with `nm_data` (R61). -/
def State.nmOffer (s : State) : Option Byte := if s.inp.nmValid then s.names.head? else none

/-- `px_addr`: the pixel index whose word feeds the byte on offer (R52, R192), which is the case only
for the two data bytes of a group's write-data frame. -/
def State.pxAddr (s : State) : Option (BitVec 10) :=
  if s.due == some .fWriteData && wphOf s.pos.fi == .pix && s.pos.ph == .send
      && decide (3 ≤ s.pos.bi) && s.txValid then
    some (placeOf (2 * groupOf s.pos.fi + (s.pos.bi - 3))).index
  else none

/-- The outcome of an accepted request, in R234's order of tests: the cause it is refused with, or
none where it is legal (R130). -/
def outcome (op : BitVec 3) (st : Session) : Option Cause :=
  if op = 0#3 then some .illegalOp
  else if st = .closed then some .afterClose
  else if Session.code st ≠ op - 1#3 then some .outOfOrder
  else none

/-- `Refuse(cause)` (R231): the block's one exceptional event. The first cause is kept, `err` is sticky,
and nothing else changes; there is no trap to enter or to return from (R239, R240). -/
def State.refuse (c : Cause) (s : State) : State :=
  { s with err := true, ecause := if s.err then s.ecause else c }

end Sys2Proof.Machine
end

