-- ==== Sys2Proof/Machine/Ops.lean ====
section
/-! DEFINITION. The shared operations: block reset (70_reset_and_hazards R270, R271), the acceptance of
a request (41_session_sequencer R131), the Command Primitive with its settle wait (40_command_primitive
R110, R113), and the streamed set-filename frame (R145). Each runs ONE transaction of the spec's
modelling level (92_eei_decisions D1): a request acceptance, a byte acceptance, a name-byte
acceptance, a settle expiry; or nothing, where the agent it waits for does not move (R59, R147). -/

namespace Sys2Proof.Machine

/-- The next clock edge: the scheduled input levels come up, or the levels stay. -/
def State.tick (s : State) : State :=
  { s with inp := s.sched.headD s.inp, sched := s.sched.tail }

/-- Block reset on an edge with `rst = 1` (R37, R270): every element of the block takes its reset
value and the trace restarts; the bytes the sink has taken stay with the sink, a name byte already
taken is lost, and the sources outside keep what they hold (R271; log 6, 7, 10). -/
def State.blockReset (s : State) : State :=
  { s with
    st := .idle
    busy := false
    err := false
    ecause := .noCause
    curOp := 0
    modeQ := 0
    pos := ⟨0, 0, .send⟩
    settleCnt := 0
    nmQ := none
    trace := []
    sunk := s.sunk ++ s.trace
    waited := 0 }

/-- The accepted request leaves the port (R62, R231). -/
def State.takeRequest (s : State) : State := { s with reqs := s.reqs.tail }

/-- `Accept-legal(op, arg)` (R131): the session moves on the acceptance edge, and the frame program
starts at its first byte; CLOSE latches its mode byte (R220). -/
def State.acceptLegal (op : BitVec 3) (arg : Byte) (s : State) : State :=
  { s with
    st := sessionOf op
    busy := true
    curOp := op
    pos := ⟨0, 0, .send⟩
    modeQ := if op = 7#3 then arg else s.modeQ }

/-- A request on the port at a clock edge (R62, R234): while `req_ready = 0` it waits; accepted, it
is executed (R131) or refused (R231). -/
def acceptRequest (op : BitVec 3) (arg : Byte) (s : State) :
    Host.Outcome State Fault Refusal :=
  if s.reqReady then
    match outcome op s.st with
    | none => .next (s.takeRequest.acceptLegal op arg)
    | some c => .next (s.takeRequest.refuse c)
  else .next s

/-- The sink accepts byte `b` of a frame with opcode `op` (R29, R58): it joins the trace and `bi`
advances; after the frame's last byte the settle wait starts (R31, R110). -/
def State.acceptByte (b : Byte) (last : Bool) (op : Byte) (s : State) : State :=
  { s with
    trace := s.trace ++ [b]
    pos := ⟨s.pos.fi, s.pos.bi + 1, if last then .settle else .send⟩
    settleCnt := if last then settleCycles op else s.settleCnt }

/-- The sink accepts the held name byte (R145): the terminating 0x00 is the frame's last byte. -/
def State.acceptNameByte (b : Byte) (s : State) : State :=
  { s.acceptByte b (b == 0) 0x2F#8 with nmQ := none }

/-- `NmByte()` takes the next byte from the name source (R61, R145). -/
def State.takeName (b : Byte) (s : State) : State :=
  { s with nmQ := some b, names := s.names.tail }

/-- The settle wait expires (R29, R113), which the model runs as one step (R290; log 11): the next frame of
the program starts, or the operation ends and `busy` falls. -/
def State.expireSettle (s : State) : State :=
  { s with
    busy := (frameAt s.curOp (s.pos.fi + 1)).isSome
    pos := if (frameAt s.curOp (s.pos.fi + 1)).isSome then ⟨s.pos.fi + 1, 0, .send⟩ else s.pos
    settleCnt := 0
    waited := s.waited + s.settleCnt }

/-- `TxByte(b)` at one clock edge (R14, R58): accepted when `tx_ready = 1`, else held. -/
def sendByte (b : Byte) (last : Bool) (op : Byte) (s : State) : State :=
  if s.inp.txReady then s.acceptByte b last op else s

/-- One transaction of `Emit(op, params)` (R110) for the instruction row `i` whose frame is `f`: the
next byte is offered to the sink, or, all sent, the settle wait expires. -/
def emitFrame (i : Instr) (f : Frame) (s : State) : Host.Outcome State Fault Refusal :=
  if s.inp.rst then .next s
  else if s.due = some i then
    match s.pos.ph with
    | .settle => .next s.expireSettle
    | .send =>
      match f.bytes[s.pos.bi]? with
      | some b => .next (sendByte b (s.pos.bi + 1 == f.bytes.length) f.op s)
      | none => .fault .badPosition
  else .refused .frameNotDue

/-- One edge of NAME's loop (R145): the held byte is offered to the sink; with none held the block
waits in `NmByte()`. -/
def nameLoop (s : State) : State :=
  match s.nmQ with
  | some b => if s.inp.txReady then s.acceptNameByte b else s
  | none =>
    match s.nmOffer with
    | some b => s.takeName b
    | none => s

/-- One transaction of the set-filename frame (R145): prefix, opcode and marker, then byte by byte
what the name source gives, up to and including the first 0x00, then the settle wait. -/
def emitFilename (s : State) : Host.Outcome State Fault Refusal :=
  if s.inp.rst then .next s
  else if s.due = some .fSetFilename then
    match s.pos.ph with
    | .settle => .next s.expireSettle
    | .send =>
      match nameLead[s.pos.bi]? with
      | some b => .next (sendByte b false 0x2F#8 s)
      | none => .next (nameLoop s)
  else .refused .frameNotDue

end Sys2Proof.Machine
end

