-- ==== Sys2Proof/Machine/Frames.lean ====
section
/-! DEFINITION. The frame rows (30_encoding R86): each is run by the Command Primitive (R110) when the
frame program has it at `pos`, one transaction at a time, until its settle wait has expired. -/

namespace Sys2Proof.Machine

/-- F_RESET, `57 AB 05`, then 200 ms (R133). -/
def execFReset (s : State) : Host.Outcome State Fault Refusal := emitFrame .fReset resetFrame s

/-- F_SET_MODE, `57 AB 15 06`, then 20 ms (R136). -/
def execFSetMode (s : State) : Host.Outcome State Fault Refusal :=
  emitFrame .fSetMode setModeFrame s

/-- F_MOUNT, `57 AB 31`, then 2000 ms (R139). -/
def execFMount (s : State) : Host.Outcome State Fault Refusal := emitFrame .fMount mountFrame s

/-- F_CREATE, `57 AB 34`, then 2000 ms (R142). -/
def execFCreate (s : State) : Host.Outcome State Fault Refusal := emitFrame .fCreate createFrame s

/-- F_SET_FILENAME, `57 AB 2F 2F`, the name, `00`, then 20 ms (R145). -/
def execFSetFilename (s : State) : Host.Outcome State Fault Refusal := emitFilename s

/-- F_DECLARE_LEN, `57 AB 3C lo hi`, then `SETTLE_LEN_MS` (R181). -/
def execFDeclareLen (s : State) : Host.Outcome State Fault Refusal :=
  emitFrame .fDeclareLen (declareFrame (declaredLen s.pos.fi)) s

/-- F_WRITE_DATA, `57 AB 2D` and the data, then `SETTLE_WR_MS` (R181). -/
def execFWriteData (s : State) : Host.Outcome State Fault Refusal :=
  emitFrame .fWriteData (writeFrame (writePayload s.hdr s.mem s.pos.fi)) s

/-- F_UPDATE_PTR, `57 AB 3D`, then `SETTLE_PTR_MS` (R181, R183). -/
def execFUpdatePtr (s : State) : Host.Outcome State Fault Refusal :=
  emitFrame .fUpdatePtr updateFrame s

/-- F_CLOSE, `57 AB 36 mode`, then no wait: 0 ms (R220, R221). -/
def execFClose (s : State) : Host.Outcome State Fault Refusal :=
  emitFrame .fClose (closeFrame s.modeQ) s

end Sys2Proof.Machine
end

