-- ==== Sys2Proof/Machine/Requests.lean ====
section
/-! DEFINITION. The request rows: the reserved op 0 (60_exceptions R233), the five session requests
(41_session_sequencer R133 to R147), WRITEBMP (43_bmp_stream_writer R180) and CLOSE (44_file_close
R220). A request's own effect is its acceptance, legal or refused; the frames it sets going are the
frame rows' (Machine/Frames.lean). -/

namespace Sys2Proof.Machine

/-- Op 0, reserved: refused with `ILLEGAL_OP` in every state (R233). -/
def execResvOp0 (arg : Byte) (s : State) : Host.Outcome State Fault Refusal :=
  acceptRequest 0 arg s

/-- RESET (R133): legal in `Idle`; it resets no register of the block (R134). -/
def execReset (arg : Byte) (s : State) : Host.Outcome State Fault Refusal :=
  acceptRequest 1 arg s

/-- USBMODE (R136): legal in `Reset`. -/
def execUsbmode (arg : Byte) (s : State) : Host.Outcome State Fault Refusal :=
  acceptRequest 2 arg s

/-- MOUNT (R139): legal in `UsbMode`. -/
def execMount (arg : Byte) (s : State) : Host.Outcome State Fault Refusal :=
  acceptRequest 3 arg s

/-- CREATE (R142): legal in `DiskMounted`. -/
def execCreate (arg : Byte) (s : State) : Host.Outcome State Fault Refusal :=
  acceptRequest 4 arg s

/-- NAME (R145): legal in `FileCreated`. -/
def execName (arg : Byte) (s : State) : Host.Outcome State Fault Refusal :=
  acceptRequest 5 arg s

/-- WRITEBMP (R180): legal in `FileNamed`, so at most once per session (R182). -/
def execWritebmp (arg : Byte) (s : State) : Host.Outcome State Fault Refusal :=
  acceptRequest 6 arg s

/-- CLOSE (R220): legal in `Writing`; the arg is the close-mode byte, any value (R82, R223). -/
def execClose (mode : Byte) (s : State) : Host.Outcome State Fault Refusal :=
  acceptRequest 7 mode s

end Sys2Proof.Machine
end

