-- ==== Sys2Proof/Machine/Dispatch.lean ====
section
/-! DEFINITION. One arm per constructor of Instr, each a call of its meaning. -/

namespace Sys2Proof.Machine

def exec (i : Instr) (s : State) : Host.Outcome State Fault Refusal :=
  match i with
  | .resvOp0 arg => Sys2Proof.Machine.execResvOp0 arg s
  | .reset arg => Sys2Proof.Machine.execReset arg s
  | .usbmode arg => Sys2Proof.Machine.execUsbmode arg s
  | .mount arg => Sys2Proof.Machine.execMount arg s
  | .create arg => Sys2Proof.Machine.execCreate arg s
  | .name arg => Sys2Proof.Machine.execName arg s
  | .writebmp arg => Sys2Proof.Machine.execWritebmp arg s
  | .close mode => Sys2Proof.Machine.execClose mode s
  | .fReset => Sys2Proof.Machine.execFReset s
  | .fSetMode => Sys2Proof.Machine.execFSetMode s
  | .fMount => Sys2Proof.Machine.execFMount s
  | .fCreate => Sys2Proof.Machine.execFCreate s
  | .fSetFilename => Sys2Proof.Machine.execFSetFilename s
  | .fDeclareLen => Sys2Proof.Machine.execFDeclareLen s
  | .fWriteData => Sys2Proof.Machine.execFWriteData s
  | .fUpdatePtr => Sys2Proof.Machine.execFUpdatePtr s
  | .fClose => Sys2Proof.Machine.execFClose s

end Sys2Proof.Machine
end

