-- ==== Sys2Proof/Machine/Fetch.lean ====
section
/-! DEFINITION. What the block runs at a clock edge. It has no instruction memory (R12, R72): while an
operation is in progress the hardwired frame program gives the frame at `pos` (R29, R30); while it is
idle a request on the port gives the instruction (R62, R80). -/

namespace Sys2Proof.Machine

/-- The instruction of this edge, none when the block is idle and no request is presented. -/
def State.fetch (s : State) : Option Instr :=
  if s.busy then s.due else s.reqOffer.map decodeRequest

/-- An environment in which every agent is willing to move, with `rst = 0`. -/
def willing : Inputs := ⟨false, true, true, true⟩

/-- The state in which `w` is the request the host presents next, the block ready for it. -/
def State.presentRequest (w : ReqWord) (s : State) : State :=
  { s with busy := false, inp := willing, reqs := w :: s.reqs }

/-- The state in which operation `op` is in progress and its frame `fi` is due, none of it sent. -/
def State.beginFrame (op : BitVec 3) (fi : Nat) (s : State) : State :=
  { s with
    st := sessionOf op
    busy := true
    curOp := op
    pos := ⟨fi, 0, .send⟩
    inp := willing }

/-- The operation and the frame index at which a frame row stands first (R30). -/
def firstPlace (i : Instr) : Option (BitVec 3 × Nat) :=
  match i with
  | .fReset => some (1, 0)
  | .fSetMode => some (2, 0)
  | .fMount => some (3, 0)
  | .fCreate => some (4, 0)
  | .fSetFilename => some (5, 0)
  | .fDeclareLen => some (6, 0)
  | .fWriteData => some (6, 1)
  | .fUpdatePtr => some (6, 2)
  | .fClose => some (7, 0)
  | .resvOp0 _ => none
  | .reset _ => none
  | .usbmode _ => none
  | .mount _ => none
  | .create _ => none
  | .name _ => none
  | .writebmp _ => none
  | .close _ => none

/-- A state whose next step runs the instruction of a decoded coding (log 9): a request waits on the
port, a frame stands where its program has it. A coding that is rejected changes nothing. -/
def State.placeEncoding (e : Encoding) (s : State) : State :=
  match e, decode e with
  | .word w, .instr _ _ => s.presentRequest (BitVec.ofNat 11 w)
  | .wire _, .instr i _ =>
    match firstPlace i with
    | some (op, fi) => s.beginFrame op fi
    | none => s
  | _, .rejected _ => s

end Sys2Proof.Machine
end

