-- ==== Sys2Proof/Machine/Step.lean ====
section
/-! DEFINITION. One clock edge at the transaction level (92_eei_decisions D1). -/

namespace Sys2Proof.Machine

/-- The edge is over: the next input levels come up. A stop stays a stop. -/
def tickOutcome : Host.Outcome State Fault Refusal → Host.Outcome State Fault Refusal
  | .next s => .next s.tick
  | .fault r => .fault r
  | .refused r => .refused r

/-- One step: with `rst = 1` block reset (R270, and no request accepted on that edge, R238); else the
fetched instruction runs (R70: one at a time, in order); with nothing to run the block stays idle
(R291 (c)). A busy block whose `pos` names no frame is stuck (`Fault.badPosition`). -/
def step (s : State) : Host.Outcome State Fault Refusal :=
  if s.inp.rst then .next s.blockReset.tick
  else
    match s.fetch with
    | some i => tickOutcome (exec i s)
    | none => if s.busy then .fault .badPosition else .next s.tick

/-- `s` with the instruction of an opcode-table word placed where the next step runs it. -/
def State.withFetchWord (s : State) (nbits w : Nat) : State :=
  s.placeEncoding (tableEncoding nbits w)

end Sys2Proof.Machine
end

