-- ==== Sys2Proof/Machine/Program.lean ====
section
/-! DEFINITION. The frame programs as lists, the form in which the spec writes them (10_state R30;
43_bmp_stream_writer R180, R181, R190, R200). The machine runs them by index (`frameAt`); statements
compare the two. -/

namespace Sys2Proof.Machine

/-- `WriteChunk(n, data)`: declare, write, update (R181). -/
def writeChunk (n : BitVec 16) (data : List Byte) : List Frame :=
  [declareFrame n, writeFrame data, updateFrame]

/-- `WF(M)`, 4614 frames (R180, R190). -/
def writeProgram (h : HdrParams) (m : Memory) : List Frame :=
  writeChunk 54 (hdrRom h)
    ++ (List.range Config.nGroups).flatMap
        (fun k => writeChunk 2 [pixByte m (2 * k), pixByte m (2 * k + 1)])
    ++ writeChunk 2 [0x00, 0x00]

/-- `PixStream(M)` (R200). -/
def pixStream (m : Memory) : List Byte := (List.range Config.pixBytes).map (pixByte m)

/-- `Body(M) = Hdr ++ PixStream(M) ++ [0x00, 0x00]` (R200). -/
def body (h : HdrParams) (m : Memory) : List Byte := hdrRom h ++ pixStream m ++ [0x00, 0x00]

/-- The frame program of request op `op` (R30), for a name and a close mode given as a whole. -/
def opProgram (h : HdrParams) (m : Memory) (name : List Byte) (mode : Byte) (op : Nat) :
    List Frame :=
  match op with
  | 1 => [resetFrame]
  | 2 => [setModeFrame]
  | 3 => [mountFrame]
  | 4 => [createFrame]
  | 5 => [filenameFrame name]
  | 6 => writeProgram h m
  | 7 => [closeFrame mode]
  | _ => []

/-- The bytes of a list of frames, in order (R60, R190). -/
def framesBytes (fs : List Frame) : List Byte := fs.flatMap Frame.bytes

/-- The bytes of the first `k` operations of a session, in their one legal order (R130, R281). -/
def sessionBytes (h : HdrParams) (m : Memory) (name : List Byte) (mode : Byte) (k : Nat) :
    List Byte :=
  (List.range k).flatMap (fun j => framesBytes (opProgram h m name mode (j + 1)))

end Sys2Proof.Machine
end

