-- ==== Sys2Proof/Safety.lean ====
section
/-! DEFINITION. What statements say of states and runs: the invariants of the block, the trace a session
must have sent, and the two shapes in which an emission's result is written. -/

namespace Sys2Proof.Machine

/-- `k` steps, stopping at the first fault or refusal: `Host.Core.run` of this machine, at its own types. -/
def runSteps : Nat → State → Host.Outcome State Fault Refusal
  | 0, s => .next s
  | k + 1, s =>
    match step s with
    | .next t => runSteps k t
    | .fault r => .fault r
    | .refused r => .refused r

/-- The same state over another pixel memory. -/
def State.withMem (m : Memory) (s : State) : State := { s with mem := m }

/-- `err = 0 ⇔ ecause = 0` (R25). -/
def ErrMatchesCause (s : State) : Prop := s.err = false ↔ s.ecause = .noCause

/-- The state in the session of an operation in progress: `st` is its target state (R131), and `pos`
lies inside its frame program, before the frame's end while it is sent and at its end while it
settles (R29). The set-filename frame has no end known beforehand (R147), only its four leading bytes. -/
def PosInProgram (s : State) : Prop :=
  s.busy = true →
    s.curOp ≠ 0#3 ∧ Session.code s.st = s.curOp ∧
      ∃ i, frameAt s.curOp s.pos.fi = some i ∧
        ∀ f, frameOf i s = some f →
          (s.pos.ph = .send → s.pos.bi < f.bytes.length) ∧
          (s.pos.ph = .settle → s.pos.bi = f.bytes.length)

/-- A name byte is held only in the name part of a set-filename frame being sent (R145). -/
def HeldByteInName (s : State) : Prop :=
  s.nmQ.isSome = true →
    s.busy = true ∧ s.curOp = 5#3 ∧ s.pos.ph = .send ∧ 4 ≤ s.pos.bi

/-- The settle timer stands at 0 outside a settle wait (R31, R243). -/
def TimerAtRest (s : State) : Prop :=
  (s.busy = false ∨ s.pos.ph = .send) → s.settleCnt = 0

/-- The registers' invariant. -/
def ControlInv (s : State) : Prop :=
  ErrMatchesCause s ∧ PosInProgram s ∧ HeldByteInName s ∧ TimerAtRest s ∧
    Memory.wf s.mem = true

/-- The bytes of the operation in progress that the sink has accepted, by `pos` (R29), for a name
known as a whole: the frames before `fi`, then `bi` bytes of frame `fi`. -/
def partBytes (fs : List Frame) (pos : Pos) : List Byte :=
  framesBytes (fs.take pos.fi) ++ (framesBytes (fs.drop pos.fi |>.take 1)).take pos.bi

/-- The trace is exactly what a session has sent when it stands at `st` and `pos`, for the name
`name`: the whole operations before, in their one order, then the part of the one in progress; and
`pos` lies inside that program (R29, R30, R60, R131). -/
def TraceIsSession (name : List Byte) (s : State) : Prop :=
  if s.busy then
    s.trace
        = sessionBytes s.hdr s.mem name s.modeQ (s.curOp.toNat - 1)
          ++ partBytes (opProgram s.hdr s.mem name s.modeQ s.curOp.toNat) s.pos ∧
      ∃ f, (opProgram s.hdr s.mem name s.modeQ s.curOp.toNat)[s.pos.fi]? = some f ∧
        (s.pos.ph = .send → s.pos.bi < f.bytes.length) ∧
        (s.pos.ph = .settle → s.pos.bi = f.bytes.length)
  else s.trace = sessionBytes s.hdr s.mem name s.modeQ (Session.code s.st).toNat

/-- The machine's whole invariant: the registers', and that the trace since block reset is a session's,
for some name without a 0x00 inside (R145). -/
def SessionInv (s : State) : Prop :=
  ControlInv s ∧ ∃ name, nameWf name = true ∧ TraceIsSession name s

/-- The state after the sink accepted byte `b` at `pos.bi` of a frame of `len` bytes, after whose last
byte the block waits `ms` milliseconds (R29, R31, R58), written out field by field. -/
def afterByte (s : State) (b : Byte) (len ms : Nat) : State :=
  { s with
    trace := s.trace ++ [b]
    pos := ⟨s.pos.fi, s.pos.bi + 1, if s.pos.bi + 1 = len then .settle else .send⟩
    settleCnt := if s.pos.bi + 1 = len then ms * Config.cyclesPerMs else s.settleCnt }

/-- The state after the settle wait of an operation's last frame: the operation is over (R29). -/
def afterLastSettle (s : State) : State :=
  { s with busy := false, settleCnt := 0, waited := s.waited + s.settleCnt }

/-- The state after the settle wait of a frame that another frame follows (R29). -/
def afterInnerSettle (s : State) : State :=
  { s with
    pos := ⟨s.pos.fi + 1, 0, .send⟩
    settleCnt := 0
    waited := s.waited + s.settleCnt }

/-- Operation `op` is in progress at frame `fi`, and no block reset is asserted. -/
def Running (s : State) (op : BitVec 3) (fi : Nat) : Prop :=
  s.inp.rst = false ∧ s.busy = true ∧ s.curOp = op ∧ s.pos.fi = fi

/-- Everything that stays with an emission: the session and flag registers, the operation and its mode
byte, the stores, and what the environment has still to bring. -/
def EmissionFrame (s t : State) : Prop :=
  t.st = s.st ∧ t.err = s.err ∧ t.ecause = s.ecause ∧ t.curOp = s.curOp ∧ t.modeQ = s.modeQ ∧
    t.hdr = s.hdr ∧ (∀ a, Memory.readByte t.mem a = Memory.readByte s.mem a) ∧
    t.inp = s.inp ∧ t.sched = s.sched ∧ t.reqs = s.reqs ∧ t.sunk = s.sunk

end Sys2Proof.Machine
end

