-- ==== Sys2Proof/Certificates/Slice0/Obligations.lean ====
section
/-! DEFINITION. The statements about MSD-SEQ for the provers. Each docstring names the rules of the spec
it formalises; a clause that rests on the model's own choice names the log entry. -/

open Sys2Proof Sys2Proof.Machine

namespace Sys2Proof.Claims

/-- The state a legal request leaves (R131): the session at its target, the operation begun at its
first byte, the request gone from the port, all else as it was. -/
def begun (s : State) (st : Session) (op : BitVec 3) : State :=
  { s with st := st, busy := true, curOp := op, pos := ⟨0, 0, .send⟩, reqs := s.reqs.tail }

/-- The state a refused request leaves (R231): the first cause kept, `err` set, the request consumed. -/
def refusedWith (s : State) (c : Cause) : State :=
  { s with err := true, ecause := if s.err then s.ecause else c, reqs := s.reqs.tail }

/-- The request port is ready: no operation in progress and no block reset (R26, R62). -/
def Ready (s : State) : Prop := s.busy = false ∧ s.inp.rst = false

/-- One transaction of sending the frame with bytes `image`, after which the block waits `ms`: the byte
at `bi` is accepted when the sink is ready, and else held. -/
def Sends (i : Instr) (s : State) (image : List Byte) (ms : Nat) : Prop :=
  s.pos.ph = .send → ∀ b, image[s.pos.bi]? = some b →
    exec i s = .next (if s.inp.txReady then afterByte s b image.length ms else s)

/-- The environment moves whenever the block waits for it, from now on, and never asserts `rst`. -/
def Willing (s : State) : Prop := s.inp = willing ∧ s.sched = []

/-- The operation ended after its last frame, of `len` bytes at index `fi`: `bytes` sent, `ms`
milliseconds of settle waits sat through. -/
def ended (s : State) (fi len : Nat) (bytes : List Byte) (ms : Nat) : State :=
  { s with
    busy := false
    trace := s.trace ++ bytes
    pos := ⟨fi, len, .settle⟩
    settleCnt := 0
    waited := s.waited + ms * Config.cyclesPerMs }

end Sys2Proof.Claims

open Sys2Proof.Claims

/-! ### Codings (30_encoding) -/

/-- Words written out from R80, R81, R83 (request) and R84, R86 (frame). The frame half of the decoder
is an observer's (log 18). -/
def Obligations.SpecWordsDecodeAsListed : Prop :=
  decode (.word 0x7A5) = .instr (.close 0xA5) [] ∧
  decode (.word 0x2FF) = .instr (.usbmode 0xFF) [] ∧
  decode (.word 0x000) = .instr (.resvOp0 0x00) [] ∧
  decode (.word 0x800) = .rejected .wideWord ∧
  decode (.wire [0x57, 0xAB, 0x15, 0x06]) = .instr .fSetMode [0x06] ∧
  decode (.wire [0x57, 0xAB, 0x3D]) = .instr .fUpdatePtr [] ∧
  decode (.wire [0x57, 0xAB, 0x06]) = .rejected .badOpcode ∧
  decode (.wire [0xAB, 0x57, 0x05]) = .rejected .badHead

/-- Decoding an encoded instruction gives it back, and every 11-bit word is the coding of the request
it decodes to (R80, R83). The frame half of the decoder is an observer's (log 18). -/
def Obligations.RequestAndFrameCodingsRoundTrip : Prop :=
  (∀ i : Instr, i.wf = true → decode (encode i) = .instr i []) ∧
  (∀ w : ReqWord, encode (decodeRequest w) = .word w.toNat)

/-- R84, R85: an observer that splits the bytes of any frames the block can emit, each write-data
payload as long as just declared (R201), finds exactly those frames and nothing left over. -/
def Obligations.ObserverRecoversEveryFrame : Prop :=
  ∀ fs : List Frame, framesWf 0 fs = true → splitTrace (framesBytes fs) = (fs, [])

/-! ### Requests (41, 43 §1, 44, 60) -/

/-- R234: when a request is accepted exactly one outcome applies, by the order of tests `outcome` makes;
and that outcome is the full table's, row by row: `none` is legal, a number the cause code (R232). -/
def Obligations.AcceptedRequestHasTheTablesOutcome : Prop :=
  (∀ (op : BitVec 3) (arg : Byte) (s : State), Ready s →
    exec (requestOf op arg) s = .next (match outcome op s.st with
      | none => { begun s (sessionOf op) op with modeQ := if op = 7#3 then arg else s.modeQ }
      | some c => refusedWith s c)) ∧
  [Session.idle, .reset, .usbMode, .diskMounted, .fileCreated, .fileNamed, .writing, .closed].map
      (fun st => [0, 1, 2, 3, 4, 5, 6, 7].map (fun op => (outcome op st).map Cause.code))
    = [[some 1, none, some 2, some 2, some 2, some 2, some 2, some 2],
       [some 1, some 2, none, some 2, some 2, some 2, some 2, some 2],
       [some 1, some 2, some 2, none, some 2, some 2, some 2, some 2],
       [some 1, some 2, some 2, some 2, none, some 2, some 2, some 2],
       [some 1, some 2, some 2, some 2, some 2, none, some 2, some 2],
       [some 1, some 2, some 2, some 2, some 2, some 2, none, some 2],
       [some 1, some 2, some 2, some 2, some 2, some 2, some 2, none],
       [some 1, some 3, some 3, some 3, some 3, some 3, some 3, some 3]]

/-- R233, R231: an accepted request with op 0 is refused with `ILLEGAL_OP`, whatever `st` and `arg`. -/
def Obligations.ReservedOpIsRefusedInEveryState : Prop :=
  ∀ (arg : Byte) (s : State), Ready s → exec (.resvOp0 arg) s = .next (refusedWith s .illegalOp)

/-- R130, R131 for RESET, USBMODE, MOUNT, CREATE and NAME: in the one state where each is legal, an
accepted request moves the session and starts its operation; `err` and `ecause` stay, so an earlier
refusal does not stand in the way. -/
def Obligations.SessionRequestsBeginWhereLegal : Prop :=
  ∀ (arg : Byte) (s : State), Ready s →
    (s.st = .idle → exec (.reset arg) s = .next (begun s .reset 1#3)) ∧
    (s.st = .reset → exec (.usbmode arg) s = .next (begun s .usbMode 2#3)) ∧
    (s.st = .usbMode → exec (.mount arg) s = .next (begun s .diskMounted 3#3)) ∧
    (s.st = .diskMounted → exec (.create arg) s = .next (begun s .fileCreated 4#3)) ∧
    (s.st = .fileCreated → exec (.name arg) s = .next (begun s .fileNamed 5#3))

/-- R180, R131: WRITEBMP in `FileNamed`. -/
def Obligations.WritebmpBeginsInFileNamed : Prop :=
  ∀ (arg : Byte) (s : State), Ready s → s.st = .fileNamed →
    exec (.writebmp arg) s = .next (begun s .writing 6#3)

/-- R220, R131: CLOSE in `Writing`; the mode byte is latched at acceptance. -/
def Obligations.CloseBeginsInWritingAndLatchesMode : Prop :=
  ∀ (mode : Byte) (s : State), Ready s → s.st = .writing →
    exec (.close mode) s = .next { begun s .closed 7#3 with modeQ := mode }

/-- R132, R231: an accepted request that is not legal executes nothing. It is consumed, `err` is set,
the first cause kept (by R232's codes in R234's order), and nothing else changes. -/
def Obligations.IllegalRequestIsRefusedAndNothingElse : Prop :=
  ∀ (op : BitVec 3) (arg : Byte) (s : State), Ready s →
    ¬(op ≠ 0#3 ∧ Session.code s.st = op - 1#3) →
    exec (requestOf op arg) s
      = .next (refusedWith s
          (if op = 0#3 then .illegalOp else if s.st = .closed then .afterClose else .outOfOrder))

/-- R224: in `Closed` every request with op 1 to 7 is refused with `AFTER_CLOSE` and op 0 with
`ILLEGAL_OP`, the session staying `Closed`; and before `Writing` CLOSE is refused as out of order. -/
def Obligations.ClosedRefusesEveryRequest : Prop :=
  (∀ (op : BitVec 3) (arg : Byte) (s : State), Ready s → s.st = .closed →
    exec (requestOf op arg) s
      = .next (refusedWith s (if op = 0#3 then .illegalOp else .afterClose))) ∧
  (∀ (mode : Byte) (s : State), Ready s → s.st ≠ .writing → s.st ≠ .closed →
    exec (.close mode) s = .next (refusedWith s .outOfOrder))

/-- R62, R116, R272: while an operation runs or `rst = 1`, a request waits and nothing changes. -/
def Obligations.RequestWaitsWhileBusyOrReset : Prop :=
  ∀ (op : BitVec 3) (arg : Byte) (s : State), (s.busy = true ∨ s.inp.rst = true) →
    exec (requestOf op arg) s = .next s

/-- R82: the arg of ops 1 to 6 is read by no rule, and that of the reserved op neither. -/
def Obligations.ArgOnlyMattersToClose : Prop :=
  ∀ (op : BitVec 3) (a b : Byte) (s : State), op ≠ 7#3 →
    exec (requestOf op a) s = exec (requestOf op b) s

/-- The frame of all eight request rows: what a request leaves as it was, whatever its outcome. Only
CLOSE may change the mode byte (R28), and no request touches memory or the trace. -/
def Obligations.RequestLeavesEverythingElse : Prop :=
  ∀ (op : BitVec 3) (arg : Byte) (s t : State), exec (requestOf op arg) s = .next t →
    (∀ a, Memory.readByte t.mem a = Memory.readByte s.mem a) ∧ t.hdr = s.hdr ∧
    t.settleCnt = s.settleCnt ∧ t.nmQ = s.nmQ ∧ t.names = s.names ∧ t.trace = s.trace ∧
    t.sunk = s.sunk ∧ t.waited = s.waited ∧ t.inp = s.inp ∧ t.sched = s.sched ∧
    (op ≠ 7#3 → t.modeQ = s.modeQ) ∧
    (outcome op s.st ≠ none →
      t.st = s.st ∧ t.busy = s.busy ∧ t.curOp = s.curOp ∧ t.modeQ = s.modeQ ∧ t.pos = s.pos) ∧
    (outcome op s.st = none → t.err = s.err ∧ t.ecause = s.ecause)

/-! ### Frames (30, 40, 41, 43, 44) -/

/-- R133, R136, R139, R142 with R110 and R58: the bytes of the four constant session frames, one per
edge, held while the sink is not ready, and the settle time loaded after the last. That it is loaded in
the accepting transaction is the model's reading (log 11). -/
def Obligations.SessionFramesSendTheirBytes : Prop :=
  ∀ s : State,
    (Running s 1#3 0 → Sends .fReset s [0x57, 0xAB, 0x05] 200) ∧
    (Running s 2#3 0 → Sends .fSetMode s [0x57, 0xAB, 0x15, 0x06] 20) ∧
    (Running s 3#3 0 → Sends .fMount s [0x57, 0xAB, 0x31] 2000) ∧
    (Running s 4#3 0 → Sends .fCreate s [0x57, 0xAB, 0x34] 2000)

/-- R221: the close frame carries the latched mode byte, its wait is 0, and at the edge after its
fourth byte `busy` falls. That the wait is loaded in the accepting transaction and is one step of its
own is the model's reading (log 11); `waited` is the model's own count (log 8). That `pos` keeps its
last value is too (log 19). -/
def Obligations.CloseFrameSendsLatchedMode : Prop :=
  ∀ s : State, Running s 7#3 0 →
    Sends .fClose s [0x57, 0xAB, 0x36, s.modeQ] 0 ∧
    (s.pos.ph = .settle → exec .fClose s = .next (afterLastSettle s))

/-- R29, R113: the settle wait of an operation's only frame expires in one step, and `busy` falls. The
one step is R290's; `waited` is the model's own count (log 8). That the wait is one step whatever its
length (log 11) and that `pos` keeps its last value (log 19) are the model's reading. -/
def Obligations.OneFrameOperationsEndWithTheirSettle : Prop :=
  ∀ s : State, s.pos.ph = .settle →
    (Running s 1#3 0 → exec .fReset s = .next (afterLastSettle s)) ∧
    (Running s 2#3 0 → exec .fSetMode s = .next (afterLastSettle s)) ∧
    (Running s 3#3 0 → exec .fMount s = .next (afterLastSettle s)) ∧
    (Running s 4#3 0 → exec .fCreate s = .next (afterLastSettle s)) ∧
    (Running s 5#3 0 → exec .fSetFilename s = .next (afterLastSettle s))

/-- R145: the set-filename frame begins `57 AB 2F 2F`, whatever the name source does. -/
def Obligations.FilenameFrameBeginsWithItsMarker : Prop :=
  ∀ (s : State) (b : Byte), Running s 5#3 0 → s.pos.ph = .send →
    ([0x57, 0xAB, 0x2F, 0x2F] : List Byte)[s.pos.bi]? = some b →
    exec .fSetFilename s = .next (if s.inp.txReady then
      { s with trace := s.trace ++ [b], pos := ⟨0, s.pos.bi + 1, .send⟩ } else s)

/-- R145, R61, R147: after the marker, with no byte held, the block takes the next name byte when one
is offered, and else waits. `nmQ` is the model's own field (log 6). That `bi` counts past 4 is the
model's reading (log 12). -/
def Obligations.FilenameFrameTakesTheNextNameByte : Prop :=
  ∀ s : State, Running s 5#3 0 → s.pos.ph = .send → 4 ≤ s.pos.bi → s.nmQ = none →
    (∀ b rest, s.inp.nmValid = true → s.names = b :: rest →
      exec .fSetFilename s = .next { s with nmQ := some b, names := rest }) ∧
    (s.inp.nmValid = false ∨ s.names = [] → exec .fSetFilename s = .next s)

/-- R145, R146: the byte taken is forwarded unchanged, whatever it is; the first 0x00 is the frame's
last byte and starts the 20 ms wait. `nmQ` is the model's own field (log 6). That the wait is loaded in
the transaction that accepts the 00 is the model's reading (log 11), and so is that `bi` goes on
counting past 4 (log 12). -/
def Obligations.FilenameFrameForwardsNameBytesRaw : Prop :=
  ∀ (s : State) (b : Byte), Running s 5#3 0 → s.pos.ph = .send → 4 ≤ s.pos.bi → s.nmQ = some b →
    exec .fSetFilename s = .next (if s.inp.txReady then
      { s with
        nmQ := none
        trace := s.trace ++ [b]
        pos := ⟨0, s.pos.bi + 1, if b = 0 then .settle else .send⟩
        settleCnt := if b = 0 then 20 * Config.cyclesPerMs else s.settleCnt } else s)

/-- R181, R190, R64: the declare frame of a triple: 54 for the header, 2 for every group and for the
trailer, little-endian. The settle time after it is open (log 4). That the wait is loaded in the
accepting transaction is the model's reading (log 11). -/
def Obligations.DeclareFrameSendsTheLength : Prop :=
  ∀ (s : State) (j : Nat), j < 1538 → Running s 6#3 (3 * j) →
    Sends .fDeclareLen s [0x57, 0xAB, 0x3C, if j = 0 then 54 else 2, 0] Config.settleLenMs

/-- R190, R194, R195: the write frames: the header ROM, then group `k`'s two stream bytes, then the
trailer's zeros. The matrix is the one the state holds, which no step writes (R54, log 3). The settle
time is open (log 4). That the wait is loaded in the accepting transaction is the model's reading (log
11). -/
def Obligations.WriteFrameSendsHeaderGroupsTrailer : Prop :=
  ∀ s : State,
    (Running s 6#3 1 →
      Sends .fWriteData s ([0x57, 0xAB, 0x2D] ++ hdrRom s.hdr) Config.settleWrMs) ∧
    (∀ k, k < 1536 → Running s 6#3 (3 + 3 * k + 1) →
      Sends .fWriteData s
        [0x57, 0xAB, 0x2D, pixByte s.mem (2 * k), pixByte s.mem (2 * k + 1)]
        Config.settleWrMs) ∧
    (Running s 6#3 4612 → Sends .fWriteData s [0x57, 0xAB, 0x2D, 0, 0] Config.settleWrMs)

/-- R183: after a write-data frame's settle wait the update-pointer frame is due, in every triple; and
there its three bytes are sent (R181). The settle time after it is open (log 4), and that it is loaded in
the accepting transaction and run as one step is the model's reading (log 11). -/
def Obligations.UpdateFrameFollowsEveryWrite : Prop :=
  ∀ (s : State) (j : Nat), j < 1538 →
    (Running s 6#3 (3 * j + 1) → s.pos.ph = .settle →
      ∃ t, exec .fWriteData s = .next t ∧ t.due = some .fUpdatePtr ∧ t.pos = ⟨3 * j + 2, 0, .send⟩) ∧
    (Running s 6#3 (3 * j + 2) →
      Sends .fUpdatePtr s [0x57, 0xAB, 0x3D] Config.settlePtrMs)

/-- R29, R114: every frame of WRITEBMP has its own settle wait, after which the next frame begins;
after frame 4613 the operation ends. One step is the whole wait (R290; log 8, log 11). That `pos` keeps
its last value at the end is the model's reading (log 19). -/
def Obligations.WriterFramesSettleThenAdvance : Prop :=
  ∀ (s : State) (j : Nat), j < 1538 → s.pos.ph = .settle →
    (Running s 6#3 (3 * j) → exec .fDeclareLen s = .next (afterInnerSettle s)) ∧
    (Running s 6#3 (3 * j + 1) → exec .fWriteData s = .next (afterInnerSettle s)) ∧
    (Running s 6#3 (3 * j + 2) →
      exec .fUpdatePtr s = .next (if j = 1537 then afterLastSettle s else afterInnerSettle s))

/-- The frame of the nine frame rows: what an emission leaves as it was. Every byte of memory stays,
and only the set-filename frame touches the name source. -/
def Obligations.EmissionLeavesEverythingElse : Prop :=
  ∀ (i : Instr) (s t : State), (∃ op, frameInstr op = some i) → exec i s = .next t →
    EmissionFrame s t ∧ (i ≠ .fSetFilename → t.names = s.names ∧ t.nmQ = s.nmQ)

/-- The model's choice (log 5): a frame row asked for where the frame program has another frame, or
none, is refused; the spec gives a frame an effect only at its place (R30, R89). -/
def Obligations.FrameOutOfPlaceIsRefused : Prop :=
  ∀ (i : Instr) (s : State), (∃ op, frameInstr op = some i) → s.inp.rst = false → s.due ≠ some i →
    exec i s = .refused .frameNotDue

/-! ### The step and its handshakes (20, 70) -/

/-- One step is one instruction: the request on the port when the block is idle, the frame at `pos`
when it is busy, then the edge's end; with neither, the edge alone. That one step
is one edge, and that the input levels are a list, are the model's choices (log 16, log 20). -/
def Obligations.StepRunsTheFetchedInstruction : Prop :=
  ∀ s : State, s.inp.rst = false →
    (∀ w rest, s.busy = false → s.inp.reqValid = true → s.reqs = w :: rest →
      step s = tickOutcome (exec (decodeRequest w) s)) ∧
    (∀ i, s.busy = true → frameAt s.curOp s.pos.fi = some i →
      step s = tickOutcome (exec i s)) ∧
    (s.busy = false → (s.inp.reqValid = false ∨ s.reqs = []) → step s = .next s.tick)

/-- R58, R60: outside block reset, each edge adds to the trace exactly the byte on offer when the sink
is ready, and nothing otherwise. `sunk` is the model's own field (log 7). -/
def Obligations.TraceGrowsByTheAcceptedByte : Prop :=
  ∀ s t : State, s.inp.rst = false → step s = .next t →
    t.sunk = s.sunk ∧
    t.trace = s.trace ++ (if s.inp.txReady = true then s.txOffer.toList else [])

/-- R58: a byte on offer that the sink does not take is still on offer, unchanged, at the next edge,
unless block reset comes. -/
def Obligations.OfferedByteIsHeldUntilAccepted : Prop :=
  ∀ (s t : State) (b : Byte), s.inp.rst = false → s.inp.txReady = false → s.txOffer = some b →
    step s = .next t → t.inp.rst = false → t.txOffer = some b

/-- R61: a name byte leaves the source exactly when `nm_valid = 1` and `nm_ready = 1`. The source as a
list is the model's own (log 16). That none is taken on the first edge with `rst = 1` is the model's
reading (log 10). -/
def Obligations.NameByteTakenByHandshakeOnly : Prop :=
  ∀ s t : State, step s = .next t →
    t.names = if s.nmReady = true ∧ s.nmOffer.isSome = true then s.names.tail else s.names

/-- R62: a request leaves the port exactly when `req_valid = 1` and `req_ready = 1`. The host's
requests as a list are the model's own (log 16). -/
def Obligations.RequestTakenByHandshakeOnly : Prop :=
  ∀ s t : State, step s = .next t →
    t.reqs = if s.reqReady = true ∧ s.reqOffer.isSome = true then s.reqs.tail else s.reqs

/-- R113, R116: while a settle wait runs the block offers no byte, takes no name byte and accepts no
request. -/
def Obligations.SettleWaitIsSilent : Prop :=
  ∀ s : State, s.busy = true → s.pos.ph = .settle →
    s.txValid = false ∧ s.nmReady = false ∧ s.reqReady = false

/-- R14, R33, R54: no step writes the header ROM's parameters or any byte of the pixel memory. -/
def Obligations.StoresAreNeverWritten : Prop :=
  ∀ s t : State, step s = .next t →
    t.hdr = s.hdr ∧ ∀ a, Memory.readByte t.mem a = Memory.readByte s.mem a

/-- R22: outside block reset `st` stays, or goes one state forward as a legal request is accepted: the
request was offered and the port ready, its op is the one legal in the state before, it has left the
port, and its operation has begun. -/
def Obligations.SessionMovesForwardByAcceptanceOnly : Prop :=
  ∀ s t : State, s.inp.rst = false → step s = .next t →
    t.st = s.st ∨
    (s.st ≠ .closed ∧ Session.code t.st = Session.code s.st + 1 ∧
      ∃ w, s.reqReady = true ∧ s.reqOffer = some w ∧ reqOp w = Session.code s.st + 1 ∧
        t.reqs = s.reqs.tail ∧ t.busy = true ∧ t.curOp = reqOp w)

/-- R24, R25, R240: once set, `err` and the first cause stay until block reset. -/
def Obligations.FirstCauseIsKeptUntilBlockReset : Prop :=
  ∀ s t : State, s.inp.rst = false → s.err = true → step s = .next t →
    t.err = true ∧ t.ecause = s.ecause

/-- R25: `err = 0 ⇔ ecause = 0` is kept by every step. -/
def Obligations.ErrAgreesWithCauseAlways : Prop :=
  ∀ s t : State, ErrMatchesCause s → step s = .next t → ErrMatchesCause t

/-- R224: in `Closed` with nothing in progress, no step but block reset moves the session, starts an
operation, emits a byte or takes a name byte. -/
def Obligations.ClosedIsTerminal : Prop :=
  ∀ s t : State, s.inp.rst = false → s.busy = false → s.st = .closed → step s = .next t →
    t.st = .closed ∧ t.busy = false ∧ t.trace = s.trace ∧ t.names = s.names

/-- R59, R147, R291: the three ways a run stays where it is: a sink that never accepts, a name source
that never offers, a host that asks for nothing more. Levels that stay as they are are an empty `sched`,
the model's own field (log 16). -/
def Obligations.HangsAreKept : Prop :=
  ∀ s : State, s.inp.rst = false → s.sched = [] →
    ((s.txOffer.isSome = true ∧ s.inp.txReady = false) ∨
      (s.nmReady = true ∧ s.nmOffer = none) ∨
      (s.busy = false ∧ s.reqOffer = none)) →
    ∀ k, runSteps k s = .next s

/-! ### Reset and invariants (10, 70) -/

/-- The values R37 lists, the header ROM's among them. -/
def Obligations.ResetLeavesTheListedValues : Prop :=
  (∀ s : State, s.inp.rst = true → ∃ t, step s = .next t ∧
    t.stO = 0 ∧ t.busyO = false ∧ t.errO = false ∧ t.ecauseO = 0 ∧ t.curOp = 0 ∧ t.modeQ = 0 ∧
    t.pos = ⟨0, 0, .send⟩ ∧ t.settleCnt = 0 ∧ t.txValid = false ∧ t.nmReady = false ∧
    hdrRom t.hdr = hdrRom s.hdr ∧ t.trace = []) ∧
  State.reset.stO = 0 ∧ State.reset.busyO = false ∧ State.reset.errO = false ∧
  State.reset.ecauseO = 0 ∧ State.reset.curOp = 0 ∧ State.reset.modeQ = 0 ∧
  State.reset.pos = ⟨0, 0, .send⟩ ∧ State.reset.settleCnt = 0 ∧ State.reset.txValid = false ∧
  State.reset.nmReady = false ∧ State.reset.trace = []

/-- R270, R271, R272: an edge with `rst = 1` gives every element of the block its reset value from any
state, offers no byte, takes no name byte and accepts no request; the bytes the sink has accepted stay
with it (log 7), and the stores and the waiting sources are untouched. That `nmQ` is a field and that
`waited` restarts are the model's choices (log 6, log 8). That no byte is accepted on the very first
edge with `rst = 1`, even one on offer with `tx_ready = 1`, is the model's reading (log 10), and the
levels to come are its own list (log 16). -/
def Obligations.BlockResetAbandonsEverything : Prop :=
  ∀ s : State, s.inp.rst = true →
    s.txValid = false ∧ s.nmReady = false ∧ s.reqReady = false ∧
    step s = .next
      { s with
        st := .idle, busy := false, err := false, ecause := .noCause, curOp := 0, modeQ := 0
        pos := ⟨0, 0, .send⟩, settleCnt := 0, nmQ := none, waited := 0
        trace := [], sunk := s.sunk ++ s.trace
        inp := s.sched.headD s.inp, sched := s.sched.tail }

/-- The reset state meets the whole invariant. The values of the model's own fields are its choice (log
1, log 2). -/
def Obligations.ResetMeetsTheSessionInvariant : Prop := SessionInv State.reset

/-- The registers' invariant is kept by every step: `err` and `ecause` agree, `st` is the operation's
target and `pos` lies inside its frame program, a name byte is held only in NAME, the timer rests
outside a wait, the memory keeps its form (R25, R29, R31, R131, R145). The held byte (log 6), the
memory's form (log 3) and the timer's load with the last byte (log 11) are the model's. -/
def Obligations.EveryStepKeepsTheRegisterInvariant : Prop :=
  ∀ s t : State, ControlInv s → step s = .next t → ControlInv t

/-- The trace since block reset is always exactly the bytes of a session up to its present position:
the whole operations so far in their one legal order, then the part of the one in progress, for some
name without a 0x00 inside; every step keeps that (R29, R30, R60, R131, R145). That the trace restarts
at block reset (log 7) and that `bi` counts the name's bytes (log 12) are the model's reading. -/
def Obligations.EveryStepKeepsTheTraceASession : Prop :=
  ∀ s t : State, SessionInv s → step s = .next t → SessionInv t

/-- R89 (the spec's own inference from R30): the trace is a sequence of whole frames the block can
emit, each write-data payload as long as declared, followed by at most one unfinished frame. -/
def Obligations.TraceIsWholeFramesAndOnePart : Prop :=
  ∀ s : State, SessionInv s →
    ∃ fs part, s.trace = framesBytes fs ++ part ∧ framesWf 0 fs = true ∧
      (part = [] ∨ ∃ f : Frame, f.wf = true ∧ part <+: f.bytes)

/-- R199, R230: no state of the invariant stops the machine; a refused request is the block's only
exceptional event, and it is a next state. -/
def Obligations.InvariantStatesNeverStop : Prop :=
  ∀ s : State, ControlInv s → ∃ t, step s = .next t

/-! ### The scaler and the traversal (42, 43 §3) -/

/-- R161, R163: `Scale` is exactly 17 times the selected nibble, and that nibble written twice. -/
def Obligations.ScaleIsSeventeenTimesTheNibble : Prop :=
  ∀ p : Pixel,
    ((scale p .blue).toNat = 17 * (p.toNat % 16) ∧
      (scale p .green).toNat = 17 * (p.toNat / 16 % 16) ∧
      (scale p .red).toNat = 17 * (p.toNat / 256 % 16)) ∧
    ∀ c, scale p c = nibble p c ++ nibble p c

/-- R165, R166, R168: a channel's byte depends on that channel's nibble alone, and the nibble can be
read back from either half of it; bits 15:12 never matter. -/
def Obligations.ScaleDependsOnItsLaneAlone : Prop :=
  ∀ (p q : Pixel) (c : Channel),
    (scale p c = scale q c ↔ nibble p c = nibble q c) ∧
    (scale p c >>> 4).setWidth 4 = nibble p c ∧
    (scale p c).setWidth 4 = nibble p c ∧
    scale p c = scale (p &&& 0x0FFF) c

/-- R164, R167: the scaler gives each channel's value for the selectors 0, 1 and 2 (R162) and none for 3;
the extractor gives none for a row or a column of 32 or more, and inside the domain gives
`Scale(M[row][col], c)`. -/
def Obligations.ScalerRefusesOutsideItsDomain : Prop :=
  (∀ p, scaleSel p 0 = some (scale p .blue) ∧ scaleSel p 1 = some (scale p .green) ∧
    scaleSel p 2 = some (scale p .red) ∧ scaleSel p 3 = none) ∧
  (∀ (m : Memory) (row col : Nat) (c : Channel), 32 ≤ row ∨ 32 ≤ col → extract m row col c = none) ∧
  (∀ (m : Memory) (row col : BitVec 5) (c : Channel),
    extract m row.toNat col.toNat c = some (scale (Memory.readPixel m (row ++ col)) c))

/-- R191: the place of stream byte `s` is `y = s div 96`, `x = (s mod 96) div 3`, `c = s mod 3`; that is
the counter form started at the origin; and each position and channel is visited exactly once in the
3072 bytes. -/
def Obligations.TraversalVisitsEachChannelOnce : Prop :=
  (∀ s, s < 3072 → (placeOf s).y.toNat = s / 96 ∧ (placeOf s).x.toNat = s % 96 / 3 ∧
    channelOf (s % 3) = some (placeOf s).c) ∧
  placeOf 0 = ⟨0, 0, .blue⟩ ∧
  (∀ s, placeOf (s + 1) = (placeOf s).succ) ∧
  (∀ p : Place, ∃ s, s < 3072 ∧ placeOf s = p ∧ ∀ s', s' < 3072 → placeOf s' = p → s' = s)

/-! ### The write program (43) -/

/-- R186, R189: the header ROM has 54 bytes whatever its parameters; at their defaults it is the listed
bytes, and each parameter stands at its offset, little-endian. The layout is the spec's general
knowledge (G1 to G4) and the defaults its decision D16 (log 14, log 15). -/
def Obligations.HeaderRomIsTheListedBytes : Prop :=
  hdrRom {} =
    [0x42, 0x4D, 0x38, 0x0C, 0x00, 0x00, 0x00, 0x00, 0x00, 0x00, 0x36, 0x00, 0x00, 0x00,
     0x28, 0x00, 0x00, 0x00, 0x20, 0x00, 0x00, 0x00, 0x20, 0x00, 0x00, 0x00, 0x01, 0x00,
     0x18, 0x00, 0x00, 0x00, 0x00, 0x00, 0x00, 0x0C, 0x00, 0x00, 0x00, 0x00, 0x00, 0x00,
     0x00, 0x00, 0x00, 0x00, 0x00, 0x00, 0x00, 0x00, 0x00, 0x00, 0x00, 0x00] ∧
  ∀ h : HdrParams,
    (hdrRom h).length = 54 ∧
    (hdrRom h).take 6 = [0x42, 0x4D, 0x38, 0x0C, 0x00, 0x00] ∧
    ((hdrRom h).drop 6).take 4 = le32 h.reserved ∧
    ((hdrRom h).drop 10).take 24 = ((hdrRom {}).drop 10).take 24 ∧
    (hdrRom h).drop 34 = le32 h.sizeImage ++ le32 h.xppm ++ le32 h.yppm ++ le32 h.clrUsed
      ++ le32 h.clrImportant

/-- R30, R190: the machine's frame at each place of an operation is the frame the spec's program
lists there, for every operation but NAME, whose frame is streamed; and beyond the list there is none. -/
def Obligations.MachineRunsTheListedPrograms : Prop :=
  ∀ (s : State) (name : List Byte) (op : BitVec 3), op ≠ 5#3 →
    (frameAt op s.pos.fi).bind (fun i => frameOf i s)
      = (opProgram s.hdr s.mem name s.modeQ op.toNat)[s.pos.fi]?

/-- R196 (the spec's own inference from R180, R190): the counts of one WRITEBMP, for every matrix and
every choice of header parameters. -/
def Obligations.WriteProgramCounts : Prop :=
  ∀ (h : HdrParams) (m : Memory),
    (writeProgram h m).length = 4614 ∧
    (framesBytes (writeProgram h m)).length = 20046 ∧
    (((writeProgram h m).filter (fun f => f.op == 0x2D)).map (fun f => f.params.length)).sum = 3128 ∧
    ((writeProgram h m).map Frame.declares).sum = 3128

/-- R200 (the spec's own inference from R190): the payloads of the write-data frames, in order, are the
file body: header, pixel stream, trailer. -/
def Obligations.WritePayloadsAreTheFileBody : Prop :=
  ∀ (h : HdrParams) (m : Memory),
    ((writeProgram h m).filter (fun f => f.op == 0x2D)).flatMap Frame.params = body h m ∧
    ((writeProgram h m).filter (fun f => f.op == 0x2D)).length = 1538

/-- R201 (the spec's own inference from R181): the write program is declare, write, update triples and
nothing else, each payload as long as the length declared just before it; so it is a list of frames an
observer can split (R85). -/
def Obligations.WriteProgramIsTriplesOfDeclaredLength : Prop :=
  ∀ (h : HdrParams) (m : Memory),
    (∃ chunks : List (BitVec 16 × List Byte),
      writeProgram h m
        = chunks.flatMap (fun c =>
            [⟨0x3C, [lo8 c.1, hi8 c.1]⟩, ⟨0x2D, c.2⟩, ⟨0x3D, []⟩]) ∧
      ∀ c ∈ chunks, c.2.length = c.1.toNat) ∧
    framesWf 0 (writeProgram h m) = true

/-- R53, R165: bits 15:12 of the pixels never matter: a step from a state whose pixels differ only
there does the same, to the same state but for those pixels. -/
def Obligations.UnusedPixelBitsNeverMatter : Prop :=
  ∀ (s t : State) (m : Memory),
    (∀ a, Memory.readPixel m a &&& 0x0FFF = Memory.readPixel s.mem a &&& 0x0FFF) →
    step s = .next t → step (s.withMem m) = .next (t.withMem m)

/-- R148, R192: outside WRITEBMP the pixel memory never matters. -/
def Obligations.OnlyWritebmpReadsThePixels : Prop :=
  ∀ (s t : State) (m : Memory), (s.busy = false ∨ s.curOp ≠ 6#3) →
    step s = .next t → step (s.withMem m) = .next (t.withMem m)

/-- R192, R193: stream byte `n` is `Scale(M[y][x], c)` for the place `(x, y, c)` R191 gives it, `y` being
the row and `x` the column (the spec's own decision D15; log 14). At both data bytes of every group
the block drives `px_addr = {y, x}` of that byte's place and offers that byte, and it drives a pixel
address nowhere else (log 13). -/
def Obligations.PixelReadFeedsTheByteOnOffer : Prop :=
  (∀ (m : Memory) (n : Nat), n < 3072 →
    pixByte m n
      = scale (Memory.readPixel m ((placeOf n).y ++ (placeOf n).x)) (placeOf n).c) ∧
  (∀ (s : State) (k i : Nat), k < 1536 → i < 2 → Running s 6#3 (3 + 3 * k + 1) →
    s.pos.ph = .send → s.pos.bi = 3 + i →
      s.pxAddr = some ((placeOf (2 * k + i)).y ++ (placeOf (2 * k + i)).x) ∧
      s.txOffer = some (scale
        (Memory.readPixel s.mem ((placeOf (2 * k + i)).y ++ (placeOf (2 * k + i)).x))
        (placeOf (2 * k + i)).c)) ∧
  (∀ (s : State) (a : BitVec 10), s.pxAddr = some a →
    ∃ k i, k < 1536 ∧ i < 2 ∧ Running s 6#3 (3 + 3 * k + 1) ∧ s.pos.ph = .send ∧
      s.pos.bi = 3 + i ∧ a = (placeOf (2 * k + i)).y ++ (placeOf (2 * k + i)).x)

/-! ### Whole operations under a willing environment (40, 41, 43, 44, 70) -/

/-- R133, R136, R139, R142, R220 with R110: the one-frame operations, from their acceptance to their
end: the frame's bytes, its settle time, `busy` falls. The step count and `waited` are the model's (log
8, log 11). That `pos` keeps its last value is the model's reading (log 19). -/
def Obligations.OneFrameOperationsRunToTheirEnd : Prop :=
  ∀ s : State, Willing s → s.pos.bi = 0 → s.pos.ph = .send →
    (Running s 1#3 0 → runSteps 4 s
      = .next (ended s 0 3 [0x57, 0xAB, 0x05] 200)) ∧
    (Running s 2#3 0 → runSteps 5 s
      = .next (ended s 0 4 [0x57, 0xAB, 0x15, 0x06] 20)) ∧
    (Running s 3#3 0 → runSteps 4 s
      = .next (ended s 0 3 [0x57, 0xAB, 0x31] 2000)) ∧
    (Running s 4#3 0 → runSteps 4 s
      = .next (ended s 0 3 [0x57, 0xAB, 0x34] 2000)) ∧
    (Running s 7#3 0 → runSteps 5 s
      = .next (ended s 0 4 [0x57, 0xAB, 0x36, s.modeQ] 0))

/-- R145, R146: NAME forwards any name without a 0x00 inside, of any length, then the terminator, and
leaves in the source what follows it. The step count and `waited` are the model's (log 6, log 8, log
11). That `bi` counts the name's bytes (log 12) and `pos` keeps its last value (log 19) is the model's
reading. -/
def Obligations.NameRunsToItsTerminator : Prop :=
  ∀ (s : State) (name rest : List Byte), Willing s → Running s 5#3 0 → s.pos.bi = 0 →
    s.pos.ph = .send → s.nmQ = none → nameWf name = true → s.names = name ++ 0 :: rest →
    runSteps (4 + 2 * (name.length + 1) + 1) s
      = .next { ended s 0 (5 + name.length) ([0x57, 0xAB, 0x2F, 0x2F] ++ name ++ [0]) 20 with
          names := rest }

/-- R190, R196, R292: WRITEBMP sends the whole write program for every matrix, sits through a settle
wait after each of its 4614 frames, and ends. The matrix is not written meanwhile: the model has no
move that writes it (R54, R285; log 3). The step count and `waited` over the open settle times are the
model's (log 4, log 8, log 11). That `pos` keeps its last value is the model's reading (log 19). -/
def Obligations.WritebmpRunsTheWholeProgram : Prop :=
  ∀ s : State, Willing s → Running s 6#3 0 → s.pos.bi = 0 → s.pos.ph = .send →
    runSteps (20046 + 4614) s
      = .next (ended s 4613 3 (framesBytes (writeProgram s.hdr s.mem))
          (1538 * (Config.settleLenMs + Config.settleWrMs + Config.settlePtrMs)))
end

