-- ==== Sys2Proof/Laws/Memory.lean ====
section
/-! SUPPORT. The pixel memory's laws: every write keeps the canonical form, a written byte reads back,
every other byte reads as before, and the same for whole pixel words. -/

namespace Sys2Proof.Machine

theorem Memory.wfFrom_mono {lo lo' : Nat} (h : lo' ≤ lo) :
    ∀ {m : Memory}, Memory.wfFrom lo m = true → Memory.wfFrom lo' m = true
  | [], _ => rfl
  | (k, v) :: rest, hm => by
    simp only [Memory.wfFrom, Bool.and_eq_true, decide_eq_true_eq] at hm ⊢
    exact ⟨⟨⟨by omega, hm.1.1.2⟩, hm.1.2⟩, hm.2⟩

theorem Memory.wfFrom_writeByte {a : Nat} (b : Byte) (ha : a < memBytes) :
    ∀ {lo : Nat} {m : Memory}, lo ≤ a → Memory.wfFrom lo m = true →
      Memory.wfFrom lo (Memory.writeByte m a b) = true
  | lo, [], hlo, _ => by
    unfold Memory.writeByte
    split
    · rfl
    · simp [Memory.wfFrom, *]
  | lo, (k, v) :: rest, hlo, hm => by
    simp only [Memory.wfFrom, Bool.and_eq_true, decide_eq_true_eq] at hm
    obtain ⟨⟨⟨hk, hkm⟩, hv⟩, hrest⟩ := hm
    unfold Memory.writeByte
    split
    · split
      · simp [Memory.wfFrom, hk, hkm, hrest]
        simpa using hv
      · have hka : a + 1 ≤ k := by omega
        have hv' : v ≠ unlistedByte := by simpa using hv
        simp [Memory.wfFrom, *]
    · split
      · split
        · exact Memory.wfFrom_mono (by omega) hrest
        · simp [Memory.wfFrom, *]
      · have h := Memory.wfFrom_writeByte b ha (lo := k + 1) (by omega) hrest
        have hv' : v ≠ unlistedByte := by simpa using hv
        simp [Memory.wfFrom, hk, hkm, hv', h]

/-- Every byte write keeps the canonical form. -/
theorem Memory.wf_writeByte {m : Memory} {a : Nat} (b : Byte) (ha : a < memBytes)
    (hm : Memory.wf m = true) : Memory.wf (Memory.writeByte m a b) = true :=
  Memory.wfFrom_writeByte b ha (Nat.zero_le a) hm

/-- Every pixel write keeps the canonical form. -/
theorem Memory.wf_writePixel {m : Memory} (a : BitVec 10) (p : Pixel) (hm : Memory.wf m = true) :
    Memory.wf (Memory.writePixel m a p) = true := by
  have := a.isLt
  exact Memory.wf_writeByte _ (by unfold memBytes; omega)
    (Memory.wf_writeByte _ (by unfold memBytes; omega) hm)

/-- Nothing is listed before the form's first address. -/
theorem Memory.readByte_below {a : Nat} :
    ∀ {lo : Nat} {m : Memory}, a < lo → Memory.wfFrom lo m = true →
      Memory.readByte m a = unlistedByte
  | _, [], _, _ => rfl
  | lo, (k, v) :: rest, hlo, hm => by
    simp only [Memory.wfFrom, Bool.and_eq_true, decide_eq_true_eq] at hm
    have hka : k ≠ a := by omega
    simpa [Memory.readByte, hka] using
      Memory.readByte_below (lo := k + 1) (by omega) hm.2

theorem Memory.readByte_writeByte_from {a c : Nat} (b : Byte) :
    ∀ {lo : Nat} {m : Memory}, Memory.wfFrom lo m = true →
      Memory.readByte (Memory.writeByte m a b) c = if a = c then b else Memory.readByte m c
  | lo, [], _ => by
    unfold Memory.writeByte
    split <;> simp [Memory.readByte, *]
  | lo, (k, v) :: rest, hm => by
    simp only [Memory.wfFrom, Bool.and_eq_true, decide_eq_true_eq] at hm
    have hrest := hm.2
    unfold Memory.writeByte
    split
    · rename_i hak
      split
      · rename_i hb
        by_cases hac : a = c
        · subst hac
          have hka : k ≠ a := by omega
          simpa [Memory.readByte, hka, hb] using Memory.readByte_below (by omega) hrest
        · simp [hac]
      · by_cases hac : a = c <;> simp [Memory.readByte, hac]
    · split
      · rename_i hak
        subst hak
        split
        · rename_i hb
          by_cases hac : a = c
          · subst hac
            simpa [hb] using Memory.readByte_below (Nat.lt_succ_self a) hrest
          · simp [Memory.readByte, hac]
        · by_cases hac : a = c <;> simp [Memory.readByte, hac]
      · rename_i _ hak
        have ih := Memory.readByte_writeByte_from (a := a) (c := c) b hrest
        by_cases hkc : k = c
        · subst hkc
          simp [Memory.readByte, hak]
        · simp [Memory.readByte, hkc, ih]

/-- A byte read after a byte write. -/
theorem Memory.readByte_writeByte {m : Memory} {a c : Nat} (b : Byte) (hm : Memory.wf m = true) :
    Memory.readByte (Memory.writeByte m a b) c = if a = c then b else Memory.readByte m c :=
  Memory.readByte_writeByte_from b hm

/-- A pixel read after a pixel write: the word written there, every other word as before. -/
theorem Memory.readPixel_writePixel {m : Memory} (a c : BitVec 10) (p : Pixel)
    (hm : Memory.wf m = true) :
    Memory.readPixel (Memory.writePixel m a p) c = if a = c then p else Memory.readPixel m c := by
  have ha := a.isLt
  have h1 := Memory.wf_writeByte (m := m) (a := 2 * a.toNat) (p.extractLsb' 0 8)
    (by unfold memBytes; omega) hm
  unfold Memory.readPixel Memory.writePixel
  rw [Memory.readByte_writeByte _ h1, Memory.readByte_writeByte _ h1,
    Memory.readByte_writeByte _ hm, Memory.readByte_writeByte _ hm]
  by_cases hac : a = c
  · subst hac
    have hne : 2 * a.toNat + 1 ≠ 2 * a.toNat := by omega
    simp only [hne, if_true, if_false]
    ext i hi
    simp only [BitVec.getElem_append, BitVec.getElem_extractLsb']
    by_cases h8 : i < 8
    · simp [h8]
      exact BitVec.getLsbD_eq_getElem hi
    · have : 8 + (i - 8) = i := by omega
      simp [h8, this]
      exact BitVec.getLsbD_eq_getElem hi
  · have hne : a.toNat ≠ c.toNat := fun h => hac (BitVec.eq_of_toNat_eq h)
    have e2 : 2 * a.toNat ≠ 2 * c.toNat + 1 := by omega
    have e3 : 2 * a.toNat + 1 ≠ 2 * c.toNat := by omega
    have e4 : 2 * a.toNat ≠ 2 * c.toNat := by omega
    simp [e2, e3, e4, hac]

end Sys2Proof.Machine
end

