-- ==== Sys2Proof/Laws/State.lean ====
section
/-! SUPPORT. One lemma per field per update of the state, so that no proof unfolds a record update. -/

namespace Sys2Proof.Machine

section
variable (s : State)

/-! The edge's end moves the input levels only. -/

@[simp] theorem State.tick_st : s.tick.st = s.st := rfl
@[simp] theorem State.tick_busy : s.tick.busy = s.busy := rfl
@[simp] theorem State.tick_err : s.tick.err = s.err := rfl
@[simp] theorem State.tick_ecause : s.tick.ecause = s.ecause := rfl
@[simp] theorem State.tick_curOp : s.tick.curOp = s.curOp := rfl
@[simp] theorem State.tick_modeQ : s.tick.modeQ = s.modeQ := rfl
@[simp] theorem State.tick_pos : s.tick.pos = s.pos := rfl
@[simp] theorem State.tick_settleCnt : s.tick.settleCnt = s.settleCnt := rfl
@[simp] theorem State.tick_nmQ : s.tick.nmQ = s.nmQ := rfl
@[simp] theorem State.tick_hdr : s.tick.hdr = s.hdr := rfl
@[simp] theorem State.tick_mem : s.tick.mem = s.mem := rfl
@[simp] theorem State.tick_inp : s.tick.inp = s.sched.headD s.inp := rfl
@[simp] theorem State.tick_sched : s.tick.sched = s.sched.tail := rfl
@[simp] theorem State.tick_reqs : s.tick.reqs = s.reqs := rfl
@[simp] theorem State.tick_names : s.tick.names = s.names := rfl
@[simp] theorem State.tick_trace : s.tick.trace = s.trace := rfl
@[simp] theorem State.tick_sunk : s.tick.sunk = s.sunk := rfl
@[simp] theorem State.tick_waited : s.tick.waited = s.waited := rfl

/-! Block reset (R37, R270, R271). -/

@[simp] theorem State.blockReset_st : s.blockReset.st = .idle := rfl
@[simp] theorem State.blockReset_busy : s.blockReset.busy = false := rfl
@[simp] theorem State.blockReset_err : s.blockReset.err = false := rfl
@[simp] theorem State.blockReset_ecause : s.blockReset.ecause = .noCause := rfl
@[simp] theorem State.blockReset_curOp : s.blockReset.curOp = 0 := rfl
@[simp] theorem State.blockReset_modeQ : s.blockReset.modeQ = 0 := rfl
@[simp] theorem State.blockReset_pos : s.blockReset.pos = ⟨0, 0, .send⟩ := rfl
@[simp] theorem State.blockReset_settleCnt : s.blockReset.settleCnt = 0 := rfl
@[simp] theorem State.blockReset_nmQ : s.blockReset.nmQ = none := rfl
@[simp] theorem State.blockReset_hdr : s.blockReset.hdr = s.hdr := rfl
@[simp] theorem State.blockReset_mem : s.blockReset.mem = s.mem := rfl
@[simp] theorem State.blockReset_inp : s.blockReset.inp = s.inp := rfl
@[simp] theorem State.blockReset_sched : s.blockReset.sched = s.sched := rfl
@[simp] theorem State.blockReset_reqs : s.blockReset.reqs = s.reqs := rfl
@[simp] theorem State.blockReset_names : s.blockReset.names = s.names := rfl
@[simp] theorem State.blockReset_trace : s.blockReset.trace = [] := rfl
@[simp] theorem State.blockReset_sunk : s.blockReset.sunk = s.sunk ++ s.trace := rfl
@[simp] theorem State.blockReset_waited : s.blockReset.waited = 0 := rfl

/-! The request leaves the port (R62). -/

@[simp] theorem State.takeRequest_st : s.takeRequest.st = s.st := rfl
@[simp] theorem State.takeRequest_busy : s.takeRequest.busy = s.busy := rfl
@[simp] theorem State.takeRequest_err : s.takeRequest.err = s.err := rfl
@[simp] theorem State.takeRequest_ecause : s.takeRequest.ecause = s.ecause := rfl
@[simp] theorem State.takeRequest_curOp : s.takeRequest.curOp = s.curOp := rfl
@[simp] theorem State.takeRequest_modeQ : s.takeRequest.modeQ = s.modeQ := rfl
@[simp] theorem State.takeRequest_pos : s.takeRequest.pos = s.pos := rfl
@[simp] theorem State.takeRequest_settleCnt : s.takeRequest.settleCnt = s.settleCnt := rfl
@[simp] theorem State.takeRequest_nmQ : s.takeRequest.nmQ = s.nmQ := rfl
@[simp] theorem State.takeRequest_hdr : s.takeRequest.hdr = s.hdr := rfl
@[simp] theorem State.takeRequest_mem : s.takeRequest.mem = s.mem := rfl
@[simp] theorem State.takeRequest_inp : s.takeRequest.inp = s.inp := rfl
@[simp] theorem State.takeRequest_sched : s.takeRequest.sched = s.sched := rfl
@[simp] theorem State.takeRequest_reqs : s.takeRequest.reqs = s.reqs.tail := rfl
@[simp] theorem State.takeRequest_names : s.takeRequest.names = s.names := rfl
@[simp] theorem State.takeRequest_trace : s.takeRequest.trace = s.trace := rfl
@[simp] theorem State.takeRequest_sunk : s.takeRequest.sunk = s.sunk := rfl
@[simp] theorem State.takeRequest_waited : s.takeRequest.waited = s.waited := rfl

/-! A refusal changes `err` and `ecause` only (R231). -/

@[simp] theorem State.refuse_st (c : Cause) : (s.refuse c).st = s.st := rfl
@[simp] theorem State.refuse_busy (c : Cause) : (s.refuse c).busy = s.busy := rfl
@[simp] theorem State.refuse_err (c : Cause) : (s.refuse c).err = true := rfl
@[simp] theorem State.refuse_ecause (c : Cause) :
    (s.refuse c).ecause = if s.err then s.ecause else c :=
  rfl
@[simp] theorem State.refuse_curOp (c : Cause) : (s.refuse c).curOp = s.curOp := rfl
@[simp] theorem State.refuse_modeQ (c : Cause) : (s.refuse c).modeQ = s.modeQ := rfl
@[simp] theorem State.refuse_pos (c : Cause) : (s.refuse c).pos = s.pos := rfl
@[simp] theorem State.refuse_settleCnt (c : Cause) : (s.refuse c).settleCnt = s.settleCnt := rfl
@[simp] theorem State.refuse_nmQ (c : Cause) : (s.refuse c).nmQ = s.nmQ := rfl
@[simp] theorem State.refuse_hdr (c : Cause) : (s.refuse c).hdr = s.hdr := rfl
@[simp] theorem State.refuse_mem (c : Cause) : (s.refuse c).mem = s.mem := rfl
@[simp] theorem State.refuse_inp (c : Cause) : (s.refuse c).inp = s.inp := rfl
@[simp] theorem State.refuse_sched (c : Cause) : (s.refuse c).sched = s.sched := rfl
@[simp] theorem State.refuse_reqs (c : Cause) : (s.refuse c).reqs = s.reqs := rfl
@[simp] theorem State.refuse_names (c : Cause) : (s.refuse c).names = s.names := rfl
@[simp] theorem State.refuse_trace (c : Cause) : (s.refuse c).trace = s.trace := rfl
@[simp] theorem State.refuse_sunk (c : Cause) : (s.refuse c).sunk = s.sunk := rfl
@[simp] theorem State.refuse_waited (c : Cause) : (s.refuse c).waited = s.waited := rfl

/-! A legal acceptance (R131). -/

@[simp] theorem State.acceptLegal_st (op : BitVec 3) (arg : Byte) :
    (s.acceptLegal op arg).st = sessionOf op :=
  rfl
@[simp] theorem State.acceptLegal_busy (op : BitVec 3) (arg : Byte) :
    (s.acceptLegal op arg).busy = true :=
  rfl
@[simp] theorem State.acceptLegal_err (op : BitVec 3) (arg : Byte) :
    (s.acceptLegal op arg).err = s.err :=
  rfl
@[simp] theorem State.acceptLegal_ecause (op : BitVec 3) (arg : Byte) :
    (s.acceptLegal op arg).ecause = s.ecause :=
  rfl
@[simp] theorem State.acceptLegal_curOp (op : BitVec 3) (arg : Byte) :
    (s.acceptLegal op arg).curOp = op :=
  rfl
@[simp] theorem State.acceptLegal_modeQ (op : BitVec 3) (arg : Byte) :
    (s.acceptLegal op arg).modeQ = if op = 7#3 then arg else s.modeQ :=
  rfl
@[simp] theorem State.acceptLegal_pos (op : BitVec 3) (arg : Byte) :
    (s.acceptLegal op arg).pos = ⟨0, 0, .send⟩ :=
  rfl
@[simp] theorem State.acceptLegal_settleCnt (op : BitVec 3) (arg : Byte) :
    (s.acceptLegal op arg).settleCnt = s.settleCnt :=
  rfl
@[simp] theorem State.acceptLegal_nmQ (op : BitVec 3) (arg : Byte) :
    (s.acceptLegal op arg).nmQ = s.nmQ :=
  rfl
@[simp] theorem State.acceptLegal_hdr (op : BitVec 3) (arg : Byte) :
    (s.acceptLegal op arg).hdr = s.hdr :=
  rfl
@[simp] theorem State.acceptLegal_mem (op : BitVec 3) (arg : Byte) :
    (s.acceptLegal op arg).mem = s.mem :=
  rfl
@[simp] theorem State.acceptLegal_inp (op : BitVec 3) (arg : Byte) :
    (s.acceptLegal op arg).inp = s.inp :=
  rfl
@[simp] theorem State.acceptLegal_sched (op : BitVec 3) (arg : Byte) :
    (s.acceptLegal op arg).sched = s.sched :=
  rfl
@[simp] theorem State.acceptLegal_reqs (op : BitVec 3) (arg : Byte) :
    (s.acceptLegal op arg).reqs = s.reqs :=
  rfl
@[simp] theorem State.acceptLegal_names (op : BitVec 3) (arg : Byte) :
    (s.acceptLegal op arg).names = s.names :=
  rfl
@[simp] theorem State.acceptLegal_trace (op : BitVec 3) (arg : Byte) :
    (s.acceptLegal op arg).trace = s.trace :=
  rfl
@[simp] theorem State.acceptLegal_sunk (op : BitVec 3) (arg : Byte) :
    (s.acceptLegal op arg).sunk = s.sunk :=
  rfl
@[simp] theorem State.acceptLegal_waited (op : BitVec 3) (arg : Byte) :
    (s.acceptLegal op arg).waited = s.waited :=
  rfl

/-! A byte acceptance (R29, R58). -/

@[simp] theorem State.acceptByte_st (b : Byte) (last : Bool) (op : Byte) :
    (s.acceptByte b last op).st = s.st :=
  rfl
@[simp] theorem State.acceptByte_busy (b : Byte) (last : Bool) (op : Byte) :
    (s.acceptByte b last op).busy = s.busy :=
  rfl
@[simp] theorem State.acceptByte_err (b : Byte) (last : Bool) (op : Byte) :
    (s.acceptByte b last op).err = s.err :=
  rfl
@[simp] theorem State.acceptByte_ecause (b : Byte) (last : Bool) (op : Byte) :
    (s.acceptByte b last op).ecause = s.ecause :=
  rfl
@[simp] theorem State.acceptByte_curOp (b : Byte) (last : Bool) (op : Byte) :
    (s.acceptByte b last op).curOp = s.curOp :=
  rfl
@[simp] theorem State.acceptByte_modeQ (b : Byte) (last : Bool) (op : Byte) :
    (s.acceptByte b last op).modeQ = s.modeQ :=
  rfl
@[simp] theorem State.acceptByte_pos (b : Byte) (last : Bool) (op : Byte) :
    (s.acceptByte b last op).pos = ⟨s.pos.fi, s.pos.bi + 1, if last then .settle else .send⟩ :=
  rfl
@[simp] theorem State.acceptByte_settleCnt (b : Byte) (last : Bool) (op : Byte) :
    (s.acceptByte b last op).settleCnt = if last then settleCycles op else s.settleCnt :=
  rfl
@[simp] theorem State.acceptByte_nmQ (b : Byte) (last : Bool) (op : Byte) :
    (s.acceptByte b last op).nmQ = s.nmQ :=
  rfl
@[simp] theorem State.acceptByte_hdr (b : Byte) (last : Bool) (op : Byte) :
    (s.acceptByte b last op).hdr = s.hdr :=
  rfl
@[simp] theorem State.acceptByte_mem (b : Byte) (last : Bool) (op : Byte) :
    (s.acceptByte b last op).mem = s.mem :=
  rfl
@[simp] theorem State.acceptByte_inp (b : Byte) (last : Bool) (op : Byte) :
    (s.acceptByte b last op).inp = s.inp :=
  rfl
@[simp] theorem State.acceptByte_sched (b : Byte) (last : Bool) (op : Byte) :
    (s.acceptByte b last op).sched = s.sched :=
  rfl
@[simp] theorem State.acceptByte_reqs (b : Byte) (last : Bool) (op : Byte) :
    (s.acceptByte b last op).reqs = s.reqs :=
  rfl
@[simp] theorem State.acceptByte_names (b : Byte) (last : Bool) (op : Byte) :
    (s.acceptByte b last op).names = s.names :=
  rfl
@[simp] theorem State.acceptByte_trace (b : Byte) (last : Bool) (op : Byte) :
    (s.acceptByte b last op).trace = s.trace ++ [b] :=
  rfl
@[simp] theorem State.acceptByte_sunk (b : Byte) (last : Bool) (op : Byte) :
    (s.acceptByte b last op).sunk = s.sunk :=
  rfl
@[simp] theorem State.acceptByte_waited (b : Byte) (last : Bool) (op : Byte) :
    (s.acceptByte b last op).waited = s.waited :=
  rfl

/-! The acceptance of a held name byte (R145). -/

@[simp] theorem State.acceptNameByte_st (b : Byte) : (s.acceptNameByte b).st = s.st := rfl
@[simp] theorem State.acceptNameByte_busy (b : Byte) : (s.acceptNameByte b).busy = s.busy := rfl
@[simp] theorem State.acceptNameByte_err (b : Byte) : (s.acceptNameByte b).err = s.err := rfl
@[simp] theorem State.acceptNameByte_ecause (b : Byte) :
    (s.acceptNameByte b).ecause = s.ecause :=
  rfl
@[simp] theorem State.acceptNameByte_curOp (b : Byte) : (s.acceptNameByte b).curOp = s.curOp := rfl
@[simp] theorem State.acceptNameByte_modeQ (b : Byte) : (s.acceptNameByte b).modeQ = s.modeQ := rfl
@[simp] theorem State.acceptNameByte_pos (b : Byte) :
    (s.acceptNameByte b).pos = ⟨s.pos.fi, s.pos.bi + 1, if b == 0 then .settle else .send⟩ :=
  rfl
@[simp] theorem State.acceptNameByte_settleCnt (b : Byte) :
    (s.acceptNameByte b).settleCnt = if b == 0 then settleCycles 0x2F#8 else s.settleCnt :=
  rfl
@[simp] theorem State.acceptNameByte_nmQ (b : Byte) : (s.acceptNameByte b).nmQ = none := rfl
@[simp] theorem State.acceptNameByte_hdr (b : Byte) : (s.acceptNameByte b).hdr = s.hdr := rfl
@[simp] theorem State.acceptNameByte_mem (b : Byte) : (s.acceptNameByte b).mem = s.mem := rfl
@[simp] theorem State.acceptNameByte_inp (b : Byte) : (s.acceptNameByte b).inp = s.inp := rfl
@[simp] theorem State.acceptNameByte_sched (b : Byte) : (s.acceptNameByte b).sched = s.sched := rfl
@[simp] theorem State.acceptNameByte_reqs (b : Byte) : (s.acceptNameByte b).reqs = s.reqs := rfl
@[simp] theorem State.acceptNameByte_names (b : Byte) : (s.acceptNameByte b).names = s.names := rfl
@[simp] theorem State.acceptNameByte_trace (b : Byte) :
    (s.acceptNameByte b).trace = s.trace ++ [b] :=
  rfl
@[simp] theorem State.acceptNameByte_sunk (b : Byte) : (s.acceptNameByte b).sunk = s.sunk := rfl
@[simp] theorem State.acceptNameByte_waited (b : Byte) :
    (s.acceptNameByte b).waited = s.waited :=
  rfl

/-! A name-byte acceptance (R61). -/

@[simp] theorem State.takeName_st (b : Byte) : (s.takeName b).st = s.st := rfl
@[simp] theorem State.takeName_busy (b : Byte) : (s.takeName b).busy = s.busy := rfl
@[simp] theorem State.takeName_err (b : Byte) : (s.takeName b).err = s.err := rfl
@[simp] theorem State.takeName_ecause (b : Byte) : (s.takeName b).ecause = s.ecause := rfl
@[simp] theorem State.takeName_curOp (b : Byte) : (s.takeName b).curOp = s.curOp := rfl
@[simp] theorem State.takeName_modeQ (b : Byte) : (s.takeName b).modeQ = s.modeQ := rfl
@[simp] theorem State.takeName_pos (b : Byte) : (s.takeName b).pos = s.pos := rfl
@[simp] theorem State.takeName_settleCnt (b : Byte) : (s.takeName b).settleCnt = s.settleCnt := rfl
@[simp] theorem State.takeName_nmQ (b : Byte) : (s.takeName b).nmQ = some b := rfl
@[simp] theorem State.takeName_hdr (b : Byte) : (s.takeName b).hdr = s.hdr := rfl
@[simp] theorem State.takeName_mem (b : Byte) : (s.takeName b).mem = s.mem := rfl
@[simp] theorem State.takeName_inp (b : Byte) : (s.takeName b).inp = s.inp := rfl
@[simp] theorem State.takeName_sched (b : Byte) : (s.takeName b).sched = s.sched := rfl
@[simp] theorem State.takeName_reqs (b : Byte) : (s.takeName b).reqs = s.reqs := rfl
@[simp] theorem State.takeName_names (b : Byte) : (s.takeName b).names = s.names.tail := rfl
@[simp] theorem State.takeName_trace (b : Byte) : (s.takeName b).trace = s.trace := rfl
@[simp] theorem State.takeName_sunk (b : Byte) : (s.takeName b).sunk = s.sunk := rfl
@[simp] theorem State.takeName_waited (b : Byte) : (s.takeName b).waited = s.waited := rfl

/-! A settle expiry (R29, R113). -/

@[simp] theorem State.expireSettle_st : s.expireSettle.st = s.st := rfl
@[simp] theorem State.expireSettle_busy :
    s.expireSettle.busy = (frameAt s.curOp (s.pos.fi + 1)).isSome :=
  rfl
@[simp] theorem State.expireSettle_err : s.expireSettle.err = s.err := rfl
@[simp] theorem State.expireSettle_ecause : s.expireSettle.ecause = s.ecause := rfl
@[simp] theorem State.expireSettle_curOp : s.expireSettle.curOp = s.curOp := rfl
@[simp] theorem State.expireSettle_modeQ : s.expireSettle.modeQ = s.modeQ := rfl
@[simp] theorem State.expireSettle_pos :
    s.expireSettle.pos = if (frameAt s.curOp (s.pos.fi + 1)).isSome then ⟨s.pos.fi + 1, 0, .send⟩ else s.pos :=
  rfl
@[simp] theorem State.expireSettle_settleCnt : s.expireSettle.settleCnt = 0 := rfl
@[simp] theorem State.expireSettle_nmQ : s.expireSettle.nmQ = s.nmQ := rfl
@[simp] theorem State.expireSettle_hdr : s.expireSettle.hdr = s.hdr := rfl
@[simp] theorem State.expireSettle_mem : s.expireSettle.mem = s.mem := rfl
@[simp] theorem State.expireSettle_inp : s.expireSettle.inp = s.inp := rfl
@[simp] theorem State.expireSettle_sched : s.expireSettle.sched = s.sched := rfl
@[simp] theorem State.expireSettle_reqs : s.expireSettle.reqs = s.reqs := rfl
@[simp] theorem State.expireSettle_names : s.expireSettle.names = s.names := rfl
@[simp] theorem State.expireSettle_trace : s.expireSettle.trace = s.trace := rfl
@[simp] theorem State.expireSettle_sunk : s.expireSettle.sunk = s.sunk := rfl
@[simp] theorem State.expireSettle_waited : s.expireSettle.waited = s.waited + s.settleCnt := rfl

end

end Sys2Proof.Machine
end

