-- ==== Sys2Proof/Laws/Ops.lean ====
section
/-! SUPPORT. What each shared operation can do, said once: proofs cite these inversions instead of
unfolding the operations. -/

namespace Sys2Proof.Machine

/-- The three things that can happen to a request at an edge (R62, R131, R231). -/
theorem acceptRequest_next {op : BitVec 3} {arg : Byte} {s t : State}
    (h : acceptRequest op arg s = .next t) :
    (s.reqReady = false ∧ t = s) ∨
    (s.reqReady = true ∧ outcome op s.st = none ∧ t = s.takeRequest.acceptLegal op arg) ∨
    (s.reqReady = true ∧ ∃ c, outcome op s.st = some c ∧ t = s.takeRequest.refuse c) := by
  unfold acceptRequest at h
  split at h
  · rename_i hr
    split at h
    · cases h
      exact .inr (.inl ⟨hr, ‹_›, rfl⟩)
    · cases h
      exact .inr (.inr ⟨hr, _, ‹_›, rfl⟩)
  · rename_i hr
    cases h
    exact .inl ⟨Bool.eq_false_iff.mpr hr, rfl⟩

/-- A request never stops the machine. -/
theorem acceptRequest_runs (op : BitVec 3) (arg : Byte) (s : State) :
    ∃ t, acceptRequest op arg s = .next t := by
  unfold acceptRequest
  split
  · split <;> exact ⟨_, rfl⟩
  · exact ⟨_, rfl⟩

/-- A byte on offer is accepted or held (R58, R59). -/
theorem sendByte_cases (b : Byte) (last : Bool) (op : Byte) (s : State) :
    (s.inp.txReady = true ∧ sendByte b last op s = s.acceptByte b last op) ∨
    (s.inp.txReady = false ∧ sendByte b last op s = s) := by
  unfold sendByte
  cases h : s.inp.txReady
  · exact .inr ⟨rfl, by simp⟩
  · exact .inl ⟨rfl, by simp⟩

/-- The four things that can happen in NAME's loop (R145, R147). -/
theorem nameLoop_cases (s : State) :
    (∃ b, s.nmQ = some b ∧ s.inp.txReady = true ∧ nameLoop s = s.acceptNameByte b) ∨
    (∃ b, s.nmQ = some b ∧ s.inp.txReady = false ∧ nameLoop s = s) ∨
    (∃ b, s.nmQ = none ∧ s.nmOffer = some b ∧ nameLoop s = s.takeName b) ∨
    (s.nmQ = none ∧ s.nmOffer = none ∧ nameLoop s = s) := by
  unfold nameLoop
  cases hq : s.nmQ with
  | some b =>
    cases hr : s.inp.txReady
    · exact .inr (.inl ⟨b, rfl, rfl, by simp⟩)
    · exact .inl ⟨b, rfl, rfl, by simp⟩
  | none =>
    cases ho : s.nmOffer with
    | some b => exact .inr (.inr (.inl ⟨b, rfl, rfl, by simp⟩))
    | none => exact .inr (.inr (.inr ⟨rfl, rfl, by simp⟩))

/-- What one transaction of a frame can be (R110, R113). -/
theorem emitFrame_next {i : Instr} {f : Frame} {s t : State} (h : emitFrame i f s = .next t) :
    (s.inp.rst = true ∧ t = s) ∨
    (s.inp.rst = false ∧ s.due = some i ∧ s.pos.ph = .settle ∧ t = s.expireSettle) ∨
    (s.inp.rst = false ∧ s.due = some i ∧ s.pos.ph = .send ∧
      ∃ b, f.bytes[s.pos.bi]? = some b ∧
        t = sendByte b (s.pos.bi + 1 == f.bytes.length) f.op s) := by
  unfold emitFrame at h
  split at h
  · cases h
    exact .inl ⟨‹_›, rfl⟩
  · rename_i hr
    have hr : s.inp.rst = false := by simpa using hr
    split at h
    · rename_i hd
      split at h
      · cases h
        exact .inr (.inl ⟨hr, hd, ‹_›, rfl⟩)
      · rename_i hp
        split at h
        · cases h
          exact .inr (.inr ⟨hr, hd, hp, _, ‹_›, rfl⟩)
        · cases h
    · cases h

/-- What one transaction of the set-filename frame can be (R145). -/
theorem emitFilename_next {s t : State} (h : emitFilename s = .next t) :
    (s.inp.rst = true ∧ t = s) ∨
    (s.inp.rst = false ∧ s.due = some .fSetFilename ∧ s.pos.ph = .settle ∧ t = s.expireSettle) ∨
    (s.inp.rst = false ∧ s.due = some .fSetFilename ∧ s.pos.ph = .send ∧
      ∃ b, nameLead[s.pos.bi]? = some b ∧ t = sendByte b false 0x2F#8 s) ∨
    (s.inp.rst = false ∧ s.due = some .fSetFilename ∧ s.pos.ph = .send ∧ 4 ≤ s.pos.bi ∧
      t = nameLoop s) := by
  unfold emitFilename at h
  split at h
  · cases h
    exact .inl ⟨‹_›, rfl⟩
  · rename_i hr
    have hr : s.inp.rst = false := by simpa using hr
    split at h
    · rename_i hd
      split at h
      · cases h
        exact .inr (.inl ⟨hr, hd, ‹_›, rfl⟩)
      · rename_i hp
        split at h
        · cases h
          exact .inr (.inr (.inl ⟨hr, hd, hp, _, ‹_›, rfl⟩))
        · rename_i hl
          cases h
          have hb : 4 ≤ s.pos.bi := by simpa [nameLead] using hl
          exact .inr (.inr (.inr ⟨hr, hd, hp, hb, rfl⟩))
    · cases h

/-- Every request row is the shared acceptance at its op (R81). -/
theorem exec_requestOf (op : BitVec 3) (arg : Byte) (s : State) :
    exec (requestOf op arg) s = acceptRequest op arg s := by
  have h : ∀ op : BitVec 3, op = 0 ∨ op = 1 ∨ op = 2 ∨ op = 3 ∨ op = 4 ∨ op = 5 ∨ op = 6 ∨ op = 7 := by
    decide
  rcases h op with rfl | rfl | rfl | rfl | rfl | rfl | rfl | rfl <;> rfl

/-- Every frame row with a fixed image is the Command Primitive on that frame (R110). -/
theorem exec_of_frameOf {i : Instr} {s : State} {f : Frame} (h : frameOf i s = some f) :
    exec i s = emitFrame i f s := by
  cases i <;> simp only [frameOf, Option.some.injEq, reduceCtorEq] at h <;> subst h <;> rfl

/-- The frame program holds frame rows only: a request is never due (R30). -/
theorem due_is_frame {s : State} {i : Instr} (h : s.due = some i) :
    i = .fSetFilename ∨ ∃ f, frameOf i s = some f := by
  cases i <;> simp only [frameOf, reduceCtorEq, Option.some.injEq, exists_eq', or_true,
    exists_false, or_false] <;>
    (unfold State.due frameAt at h; repeat' split at h) <;> simp at h

/-- What one step can be: a block reset, an idle edge, or the fetched instruction with the edge's end. -/
theorem step_next {s t : State} (h : step s = .next t) :
    (s.inp.rst = true ∧ t = s.blockReset.tick) ∨
    (s.inp.rst = false ∧ s.fetch = none ∧ s.busy = false ∧ t = s.tick) ∨
    (s.inp.rst = false ∧ ∃ i u, s.fetch = some i ∧ exec i s = .next u ∧ t = u.tick) := by
  unfold step at h
  split at h
  · cases h
    exact .inl ⟨‹_›, rfl⟩
  · rename_i hr
    have hr : s.inp.rst = false := by simpa using hr
    split at h
    · rename_i i hf
      cases he : exec i s with
      | next u =>
        rw [he] at h
        cases h
        exact .inr (.inr ⟨hr, i, u, hf, he, rfl⟩)
      | fault r => rw [he] at h; cases h
      | refused r => rw [he] at h; cases h
    · rename_i hf
      cases hb : s.busy
      · simp [hb] at h
        exact .inr (.inl ⟨hr, hf, rfl, h.symm⟩)
      · simp [hb] at h

/-- A legal outcome is R130's legality. -/
theorem outcome_none {op : BitVec 3} {st : Session} (h : outcome op st = none) :
    op ≠ 0#3 ∧ st ≠ .closed ∧ Session.code st = op - 1#3 := by
  cases st <;> revert op <;> decide

theorem code_sessionOf (op : BitVec 3) : Session.code (sessionOf op) = op := by
  revert op
  decide

/-- Everything one step can do: a block reset; an idle edge; a request accepted, legal or refused; and,
with an operation in progress, a settle wait over, a byte of a frame, a leading byte of the
set-filename frame, or one edge of NAME's loop. -/
theorem step_cases {s t : State} (h : step s = .next t) :
    (s.inp.rst = true ∧ t = s.blockReset.tick) ∨
    (s.inp.rst = false ∧ s.busy = false ∧ s.reqOffer = none ∧ t = s.tick) ∨
    (s.inp.rst = false ∧ s.busy = false ∧ s.reqReady = true ∧ ∃ w, s.reqOffer = some w ∧
      ((outcome (reqOp w) s.st = none ∧
          t = (s.takeRequest.acceptLegal (reqOp w) (reqArg w)).tick) ∨
        ∃ c, outcome (reqOp w) s.st = some c ∧ t = (s.takeRequest.refuse c).tick)) ∨
    (s.inp.rst = false ∧ s.busy = true ∧ ∃ i, s.due = some i ∧
      ((s.pos.ph = .settle ∧ t = s.expireSettle.tick) ∨
        (s.pos.ph = .send ∧ i ≠ .fSetFilename ∧ ∃ f b, frameOf i s = some f ∧
          f.bytes[s.pos.bi]? = some b ∧
          t = (sendByte b (s.pos.bi + 1 == f.bytes.length) f.op s).tick) ∨
        (s.pos.ph = .send ∧ i = .fSetFilename ∧ ∃ b, nameLead[s.pos.bi]? = some b ∧
          t = (sendByte b false 0x2F#8 s).tick) ∨
        (s.pos.ph = .send ∧ i = .fSetFilename ∧ 4 ≤ s.pos.bi ∧ t = (nameLoop s).tick))) := by
  rcases step_next h with h | ⟨hr, hf, hb, ht⟩ | ⟨hr, i, u, hf, he, rfl⟩
  · exact .inl h
  · exact .inr (.inl ⟨hr, hb, by simpa [State.fetch, hb] using hf, ht⟩)
  · cases hb : s.busy
    · simp only [State.fetch, hb, Bool.false_eq_true, if_false, Option.map_eq_some_iff] at hf
      obtain ⟨w, hw, rfl⟩ := hf
      rw [decodeRequest, exec_requestOf] at he
      rcases acceptRequest_next he with ⟨h0, _⟩ | ⟨hq, ho, rfl⟩ | ⟨hq, c, ho, rfl⟩
      · simp [State.reqReady, hb, hr] at h0
      · exact .inr (.inr (.inl ⟨hr, rfl, hq, w, hw, .inl ⟨ho, rfl⟩⟩))
      · exact .inr (.inr (.inl ⟨hr, rfl, hq, w, hw, .inr ⟨c, ho, rfl⟩⟩))
    · simp only [State.fetch, hb, if_true] at hf
      refine .inr (.inr (.inr ⟨hr, rfl, i, hf, ?_⟩))
      by_cases hi : i = .fSetFilename
      · subst hi
        rcases emitFilename_next he with ⟨h, _⟩ | ⟨_, _, hp, rfl⟩ | ⟨_, _, hp, b, hb, rfl⟩ |
          ⟨_, _, hp, hb, rfl⟩
        · simp [hr] at h
        · exact .inl ⟨hp, rfl⟩
        · exact .inr (.inr (.inl ⟨hp, rfl, b, hb, rfl⟩))
        · exact .inr (.inr (.inr ⟨hp, rfl, hb, rfl⟩))
      · obtain rfl | ⟨f, hff⟩ := due_is_frame hf
        · exact absurd rfl hi
        · rw [exec_of_frameOf hff] at he
          rcases emitFrame_next he with ⟨h, _⟩ | ⟨_, _, hp, rfl⟩ | ⟨_, _, hp, b, hb, rfl⟩
          · simp [hr] at h
          · exact .inl ⟨hp, rfl⟩
          · exact .inr (.inl ⟨hp, hi, f, b, hff, hb, rfl⟩)

end Sys2Proof.Machine
end

