-- ==== Sys2Proof/Laws/PerInstr.lean ====
section
/-! SUPPORT. A statement per instruction: its coding is its row of spec/opcode_table.json. -/

namespace Sys2Proof.Laws

/-- A request word is 11 bits wide and has the row's op in bits 10:8 (the table's mask 0x700 of 11
bits); a frame row is matched on its three bytes on the wire. -/
def hasRow (e : Encoding) (m : Nat) : Prop :=
  match e with
  | .word w => w / 256 * 256 = m ∧ w < 2048
  | .wire bytes => bytes = headBytes m

theorem encodeRequest_toNat (op : BitVec 3) (arg : Byte) :
    (encodeRequest op arg).toNat = op.toNat * 256 + arg.toNat := by
  have h := arg.isLt
  rw [encodeRequest, BitVec.toNat_append, ← Nat.shiftLeft_add_eq_or_of_lt h, Nat.shiftLeft_eq]

theorem word_hasRow (op : BitVec 3) (arg : Byte) :
    hasRow (.word (encodeRequest op arg).toNat) (op.toNat * 256) := by
  have h := arg.isLt
  refine ⟨?_, (encodeRequest op arg).isLt⟩
  rw [encodeRequest_toNat]
  omega

/-- The "match" of the constructor's row in spec/opcode_table.json. -/
def TableRow.rowMatch : Instr → Nat
  | .resvOp0 _ => 0x000
  | .reset _ => 0x100
  | .usbmode _ => 0x200
  | .mount _ => 0x300
  | .create _ => 0x400
  | .name _ => 0x500
  | .writebmp _ => 0x600
  | .close _ => 0x700
  | .fReset => 0x57AB05
  | .fSetMode => 0x57AB15
  | .fMount => 0x57AB31
  | .fCreate => 0x57AB34
  | .fSetFilename => 0x57AB2F
  | .fDeclareLen => 0x57AB3C
  | .fWriteData => 0x57AB2D
  | .fUpdatePtr => 0x57AB3D
  | .fClose => 0x57AB36

/-- The instruction is well formed and its coding has its table row's fixed bits. -/
def TableRow.Statement (i : Instr) : Prop :=
  i.wf = true ∧ hasRow (encode i) (TableRow.rowMatch i)

theorem TableRow.resvOp0 (arg : Byte) : TableRow.Statement (.resvOp0 arg) :=
  ⟨rfl, word_hasRow 0 arg⟩
theorem TableRow.reset (arg : Byte) : TableRow.Statement (.reset arg) := ⟨rfl, word_hasRow 1 arg⟩
theorem TableRow.usbmode (arg : Byte) : TableRow.Statement (.usbmode arg) :=
  ⟨rfl, word_hasRow 2 arg⟩
theorem TableRow.mount (arg : Byte) : TableRow.Statement (.mount arg) := ⟨rfl, word_hasRow 3 arg⟩
theorem TableRow.create (arg : Byte) : TableRow.Statement (.create arg) := ⟨rfl, word_hasRow 4 arg⟩
theorem TableRow.name (arg : Byte) : TableRow.Statement (.name arg) := ⟨rfl, word_hasRow 5 arg⟩
theorem TableRow.writebmp (arg : Byte) : TableRow.Statement (.writebmp arg) :=
  ⟨rfl, word_hasRow 6 arg⟩
theorem TableRow.close (mode : Byte) : TableRow.Statement (.close mode) := ⟨rfl, word_hasRow 7 mode⟩
theorem TableRow.fReset : TableRow.Statement .fReset := ⟨rfl, rfl⟩
theorem TableRow.fSetMode : TableRow.Statement .fSetMode := ⟨rfl, rfl⟩
theorem TableRow.fMount : TableRow.Statement .fMount := ⟨rfl, rfl⟩
theorem TableRow.fCreate : TableRow.Statement .fCreate := ⟨rfl, rfl⟩
theorem TableRow.fSetFilename : TableRow.Statement .fSetFilename := ⟨rfl, rfl⟩
theorem TableRow.fDeclareLen : TableRow.Statement .fDeclareLen := ⟨rfl, rfl⟩
theorem TableRow.fWriteData : TableRow.Statement .fWriteData := ⟨rfl, rfl⟩
theorem TableRow.fUpdatePtr : TableRow.Statement .fUpdatePtr := ⟨rfl, rfl⟩
theorem TableRow.fClose : TableRow.Statement .fClose := ⟨rfl, rfl⟩

end Sys2Proof.Laws
end

