-- ==== Sys2Proof/Laws/Run.lean ====
section
/-! SUPPORT. Runs of many steps, taken apart and put together. -/

namespace Sys2Proof.Machine

theorem core_run_next {M : Host.Core} {s t : M.State} (k : Nat) (h : M.step s = .next t) :
    M.run (k + 1) s = M.run k t := by
  simp only [Host.Core.run, h]

theorem core_run_fault {M : Host.Core} {s : M.State} {r : M.Fault} (k : Nat)
    (h : M.step s = .fault r) : M.run (k + 1) s = .fault r := by
  simp only [Host.Core.run, h]

theorem core_run_refused {M : Host.Core} {s : M.State} {r : M.Refusal} (k : Nat)
    (h : M.step s = .refused r) : M.run (k + 1) s = .refused r := by
  simp only [Host.Core.run, h]

/-- `runSteps` is the host's own `run` of this machine. -/
theorem runSteps_eq_core_run : ∀ (k : Nat) (s : State), Host.Core.run Sys2Proof.core k s = runSteps k s
  | 0, _ => rfl
  | k + 1, s => by
    cases h : step s with
    | next t =>
      simp only [runSteps, h]
      exact (core_run_next (M := Sys2Proof.core) k h).trans (runSteps_eq_core_run k t)
    | fault r =>
      simp only [runSteps, h]
      exact core_run_fault (M := Sys2Proof.core) k h
    | refused r =>
      simp only [runSteps, h]
      exact core_run_refused (M := Sys2Proof.core) k h

/-- One step, then the rest. -/
theorem runSteps_succ {s t : State} (k : Nat) (h : step s = .next t) :
    runSteps (k + 1) s = runSteps k t := by
  simp only [runSteps, h]

/-- A run of `j + k` steps is `j` steps and then `k`. -/
theorem runSteps_add {t : State} (k : Nat) :
    ∀ {j : Nat} {s : State}, runSteps j s = .next t → runSteps (j + k) s = runSteps k t
  | 0, s, h => by
    simp only [runSteps, Host.Outcome.next.injEq] at h
    rw [h, Nat.zero_add]
  | j + 1, s, h => by
    rw [Nat.add_right_comm]
    cases hs : step s with
    | next u =>
      rw [runSteps_succ _ hs] at h ⊢
      exact runSteps_add k h
    | fault r => simp [runSteps, hs] at h
    | refused r => simp [runSteps, hs] at h

/-- A state that one step leaves as it is stays for ever. -/
theorem runSteps_stay {s : State} (h : step s = .next s) : ∀ k, runSteps k s = .next s
  | 0 => rfl
  | k + 1 => (runSteps_succ k h).trans (runSteps_stay h k)

end Sys2Proof.Machine
end

