-- ==== Sys2Proof/Laws/WithMem.lean ====
section
/-! SUPPORT. Exchanging the pixel memory commutes with every update of the state, and no level but the
data on offer reads it. -/

namespace Sys2Proof.Machine

section
variable (m : Memory) (s : State)

theorem withMem_due : (s.withMem m).due = s.due := rfl
theorem withMem_fetch : (s.withMem m).fetch = s.fetch := rfl
theorem withMem_reqReady : (s.withMem m).reqReady = s.reqReady := rfl
theorem withMem_nmOffer : (s.withMem m).nmOffer = s.nmOffer := rfl
theorem withMem_tick : (s.withMem m).tick = s.tick.withMem m := rfl
theorem withMem_blockReset : (s.withMem m).blockReset = s.blockReset.withMem m := rfl
theorem withMem_takeRequest : (s.withMem m).takeRequest = s.takeRequest.withMem m := rfl
theorem withMem_refuse (c : Cause) : (s.withMem m).refuse c = (s.refuse c).withMem m := rfl
theorem withMem_acceptLegal (op : BitVec 3) (arg : Byte) :
    (s.withMem m).acceptLegal op arg = (s.acceptLegal op arg).withMem m := rfl
theorem withMem_acceptByte (b : Byte) (last : Bool) (op : Byte) :
    (s.withMem m).acceptByte b last op = (s.acceptByte b last op).withMem m := rfl
theorem withMem_acceptNameByte (b : Byte) :
    (s.withMem m).acceptNameByte b = (s.acceptNameByte b).withMem m := rfl
theorem withMem_takeName (b : Byte) : (s.withMem m).takeName b = (s.takeName b).withMem m := rfl
theorem withMem_expireSettle : (s.withMem m).expireSettle = s.expireSettle.withMem m := rfl

end

end Sys2Proof.Machine
end

