-- ==== Sys2Proof/Tests/Slice0.lean ====
section
/-! SUPPORT. Tests: the codings written out from 30_encoding, the vectors of 95_test_vectors, one step
each, ill-formed terms for each check of WellFormed, and a witness for the hypotheses of every statement. -/

open Sys2Proof Sys2Proof.Machine Sys2Proof.Claims

namespace Sys2Proof.Tests

/-- An idle block in session state `st`. -/
def idleIn (st : Session) : State := { State.reset with st := st }

/-- Operation `op` in progress at the given position. -/
def busyAt (op : BitVec 3) (fi bi : Nat) (ph : Phase) : State :=
  { State.reset with st := sessionOf op, busy := true, curOp := op, pos := ⟨fi, bi, ph⟩ }

/-- The next state, where there is one. -/
def after : Host.Outcome State Fault Refusal → Option State
  | .next t => some t
  | .fault _ => none
  | .refused _ => none

/-- `(st, busy, err, ecause)`, the status tuple of 95_test_vectors. -/
def status (s : State) : BitVec 3 × Bool × Bool × BitVec 2 := (s.stO, s.busyO, s.errO, s.ecauseO)

/-! ### WellFormed: a term each check refuses -/

theorem test_word_of_12_bits_ill_formed : wordWf 0x800 = false := by decide
theorem test_unknown_opcode_ill_formed : Frame.wf ⟨0x06, []⟩ = false := by decide
theorem test_reset_frame_with_params_ill_formed : Frame.wf ⟨0x05, [0x00]⟩ = false := by decide
theorem test_mode_other_than_06_ill_formed : Frame.wf ⟨0x15, [0x00]⟩ = false := by decide
theorem test_mount_with_params_ill_formed : Frame.wf ⟨0x31, [0x00]⟩ = false := by decide
theorem test_create_with_params_ill_formed : Frame.wf ⟨0x34, [0x41, 0x00]⟩ = false := by decide
theorem test_filename_without_marker_ill_formed : Frame.wf ⟨0x2F, [0x41, 0x00]⟩ = false := by decide
theorem test_filename_unterminated_ill_formed : Frame.wf ⟨0x2F, [0x2F, 0x41]⟩ = false := by decide
theorem test_filename_zero_inside_ill_formed :
    Frame.wf ⟨0x2F, [0x2F, 0x41, 0x00, 0x42, 0x00]⟩ = false := by decide
theorem test_length_other_than_54_and_2_ill_formed : Frame.wf ⟨0x3C, [3, 0]⟩ = false := by decide
theorem test_payload_of_3_bytes_ill_formed : Frame.wf ⟨0x2D, [1, 2, 3]⟩ = false := by decide
theorem test_update_with_params_ill_formed : Frame.wf ⟨0x3D, [0x00]⟩ = false := by decide
theorem test_close_without_mode_ill_formed : Frame.wf ⟨0x36, []⟩ = false := by decide
theorem test_payload_not_as_declared_ill_formed :
    framesWf 0 [declareFrame 54, writeFrame [1, 2], updateFrame] = false := by decide
theorem test_chunk_well_formed : framesWf 0 (writeChunk 2 [1, 2]) = true := by decide

/-! ### Codings, written out bit by bit from R80, R81 and R86 -/

theorem test_decode_resv : decodeTableWord 16 0b00000000000 = some (.resvOp0 0x00) := by decide
theorem test_decode_reset : decodeTableWord 16 0b00111111111 = some (.reset 0xFF) := by decide
theorem test_decode_usbmode : decodeTableWord 16 0b01000000000 = some (.usbmode 0x00) := by decide
theorem test_decode_mount : decodeTableWord 16 0b01100000001 = some (.mount 0x01) := by decide
theorem test_decode_create : decodeTableWord 16 0b10010000000 = some (.create 0x80) := by decide
theorem test_decode_name : decodeTableWord 16 0b10100000000 = some (.name 0x00) := by decide
theorem test_decode_writebmp : decodeTableWord 16 0b11000000000 = some (.writebmp 0x00) := by decide
theorem test_decode_close : decodeTableWord 16 0b11110100101 = some (.close 0xA5) := by decide
theorem test_decode_frames :
    [0x57AB05, 0x57AB15, 0x57AB31, 0x57AB34, 0x57AB2F, 0x57AB3C, 0x57AB2D, 0x57AB3D, 0x57AB36].map
        (decodeTableWord 24)
      = [some .fReset, some .fSetMode, some .fMount, some .fCreate, some .fSetFilename,
         some .fDeclareLen, some .fWriteData, some .fUpdatePtr, some .fClose] := by decide
theorem test_decode_rejects :
    [decode (.word 0x800), decode (.wire [0x57, 0xAB]), decode (.wire [0x57, 0xAA, 0x05]),
      decode (.wire [0x57, 0xAB, 0x00])]
      = [.rejected .wideWord, .rejected .shortFrame, .rejected .badHead, .rejected .badOpcode] := by
  decide
/-- `CLOSE m` issues `0x700 | m` (R90). -/
theorem test_encode_close : encode (.close 0xA5) = .word 0x7A5 := by decide
theorem test_encode_update : encode .fUpdatePtr = .wire [0x57, 0xAB, 0x3D] := by decide
/-- Every row of the table runs as the first instruction after reset. -/
theorem test_placed_requests_are_fetched :
    [0x000, 0x100, 0x200, 0x300, 0x400, 0x500, 0x600, 0x700].map
        (fun w => (State.reset.withFetchWord 16 w).fetch)
      = [some (.resvOp0 0), some (.reset 0), some (.usbmode 0), some (.mount 0), some (.create 0),
         some (.name 0), some (.writebmp 0), some (.close 0)] := by decide
theorem test_placed_frames_are_fetched :
    [0x57AB05, 0x57AB15, 0x57AB31, 0x57AB34, 0x57AB2F, 0x57AB3C, 0x57AB2D, 0x57AB3D, 0x57AB36].map
        (fun w => (State.reset.withFetchWord 24 w).fetch)
      = [some .fReset, some .fSetMode, some .fMount, some .fCreate, some .fSetFilename,
         some .fDeclareLen, some .fWriteData, some .fUpdatePtr, some .fClose] := by decide

/-! ### Requests (vectors Q, E1, programs P2, P4) -/

theorem test_reset_begins :
    (after (exec (.reset 0xFF) (idleIn .idle))).map status = some (1, true, false, 0) := by decide
theorem test_usbmode_begins :
    (after (exec (.usbmode 0xFF) (idleIn .reset))).map status = some (2, true, false, 0) := by decide
theorem test_mount_begins :
    (after (exec (.mount 0) (idleIn .usbMode))).map status = some (3, true, false, 0) := by decide
theorem test_create_begins :
    (after (exec (.create 0) (idleIn .diskMounted))).map status = some (4, true, false, 0) := by decide
theorem test_name_begins :
    (after (exec (.name 0) (idleIn .fileCreated))).map status = some (5, true, false, 0) := by decide
theorem test_writebmp_begins :
    (after (exec (.writebmp 0) (idleIn .fileNamed))).map status = some (6, true, false, 0) := by decide
theorem test_close_latches_mode :
    (after (exec (.close 0xA5) (idleIn .writing))).map (fun t => (status t, t.modeQ))
      = some ((7, true, false, 0), 0xA5) := by decide
/-- E1a: op 0 in Idle. -/
theorem test_E1a_reserved_op :
    (after (exec (.resvOp0 0) (idleIn .idle))).map status = some (0, false, true, 1) := by decide
/-- E1b: WRITEBMP before FileNamed. -/
theorem test_E1b_writebmp_early :
    (after (exec (.writebmp 0) (idleIn .idle))).map status = some (0, false, true, 2) := by decide
/-- E1d: no repeat. -/
theorem test_E1d_reset_twice :
    (after (exec (.reset 0) (idleIn .reset))).map status = some (1, false, true, 2) := by decide
/-- E1f: no close without write. -/
theorem test_E1f_close_unwritten :
    (after (exec (.close 0) (idleIn .fileNamed))).map status = some (5, false, true, 2) := by decide
/-- E1h, E1j: after Closed, and op 0 first. -/
theorem test_E1h_reset_after_close :
    (after (exec (.reset 0) (idleIn .closed))).map status = some (7, false, true, 3) := by decide
theorem test_E1j_reserved_after_close :
    (after (exec (.resvOp0 0) (idleIn .closed))).map status = some (7, false, true, 1) := by decide
/-- E1k: the first cause is kept. -/
theorem test_E1k_first_cause_kept :
    (after (exec (.usbmode 0) { idleIn .idle with err := true, ecause := .illegalOp })).map status
      = some (0, false, true, 1) := by decide
/-- E1l: `err` does not block a legal request. -/
theorem test_E1l_err_does_not_block :
    (after (exec (.reset 0) { idleIn .idle with err := true, ecause := .outOfOrder })).map status
      = some (1, true, true, 2) := by decide

/-! ### Frames (vectors Q, H, P1), one transaction each -/

theorem test_fReset_last_byte :
    (after (exec .fReset (busyAt 1 0 2 .send))).map (fun t => (t.trace, t.pos))
      = some ([0x05], ⟨0, 3, .settle⟩) := by decide
theorem test_fReset_ends :
    (after (exec .fReset (busyAt 1 0 3 .settle))).map status = some (1, false, false, 0) := by decide
theorem test_fSetMode_mode_byte :
    (after (exec .fSetMode (busyAt 2 0 3 .send))).map (fun t => (t.trace, t.pos))
      = some ([0x06], ⟨0, 4, .settle⟩) := by decide
theorem test_fMount_opcode :
    (after (exec .fMount (busyAt 3 0 2 .send))).map (fun t => t.trace) = some [0x31] := by decide
theorem test_fCreate_opcode :
    (after (exec .fCreate (busyAt 4 0 2 .send))).map (fun t => t.trace) = some [0x34] := by decide
theorem test_fSetFilename_marker :
    (after (exec .fSetFilename (busyAt 5 0 3 .send))).map (fun t => (t.trace, t.pos))
      = some ([0x2F], ⟨0, 4, .send⟩) := by decide
/-- Q7b: the first 00 ends the name, and what follows it stays with the source. -/
theorem test_fSetFilename_terminator :
    (after (exec .fSetFilename
        { busyAt 5 0 6 .send with nmQ := some 0x00, names := [0x43, 0x00] })).map
        (fun t => (t.trace, t.pos, t.nmQ, t.names))
      = some ([0x00], ⟨0, 7, .settle⟩, none, [0x43, 0x00]) := by decide
theorem test_fDeclareLen_header_length :
    (after (exec .fDeclareLen (busyAt 6 0 3 .send))).map (fun t => t.trace) = some [0x36] := by decide
theorem test_fDeclareLen_group_length :
    (after (exec .fDeclareLen (busyAt 6 4608 3 .send))).map (fun t => t.trace) = some [0x02] := by
  decide
/-- H1: header bytes 2 and 3, the file size 3128. -/
theorem test_fWriteData_header_size_byte :
    (after (exec .fWriteData (busyAt 6 1 5 .send))).map (fun t => t.trace) = some [0x38] := by decide
/-- B3, W10: the single green pixel's second stream byte, in group 0. -/
theorem test_fWriteData_green_pixel :
    (after (exec .fWriteData
        { busyAt 6 4 4 .send with mem := Memory.writePixel [] (pixelIndex 0 0) 0x00F0 })).map
        (fun t => t.trace)
      = some [0xFF] := by decide
theorem test_fUpdatePtr_last_settle_ends :
    (after (exec .fUpdatePtr (busyAt 6 4613 3 .settle))).map status = some (6, false, false, 0) := by
  decide
theorem test_fUpdatePtr_inner_settle_advances :
    (after (exec .fUpdatePtr (busyAt 6 4610 3 .settle))).map (fun t => (t.busy, t.pos))
      = some (true, ⟨4611, 0, .send⟩) := by decide
theorem test_fClose_mode :
    (after (exec .fClose { busyAt 7 0 3 .send with modeQ := 0xA5 })).map
        (fun t => (t.trace, t.pos))
      = some ([0xA5], ⟨0, 4, .settle⟩) := by decide
/-- A sink that is not ready takes nothing (R59). -/
theorem test_stall_holds_byte :
    (after (exec .fMount { busyAt 3 0 2 .send with inp := ⟨false, true, false, true⟩ })).map
        (fun t => (t.trace, t.pos, t.txOffer))
      = some ([], ⟨0, 2, .send⟩, some 0x31) := by decide
/-- Z2: block reset after `57 AB`: the sink keeps them, `05` is never sent. -/
theorem test_Z2_reset_mid_frame :
    (after (step { busyAt 1 0 2 .send with
        inp := ⟨true, true, true, true⟩, trace := [0x57, 0xAB] })).map
        (fun t => (status t, t.trace, t.sunk))
      = some ((0, false, false, 0), [], [0x57, 0xAB]) := by decide
/-- Z1: nothing is driven under reset. -/
theorem test_Z1_outputs_under_reset :
    (fun s : State => (s.txValid, s.nmReady, s.reqReady))
        { busyAt 1 0 2 .send with inp := ⟨true, true, true, true⟩ }
      = (false, false, false) := by decide

/-! ### Scaler, traversal, header (vectors S, X, H) -/

/-- S2 to S9: blue, green, red of each. -/
theorem test_S_vectors :
    ([0x0000, 0x0FFF, 0x00F0, 0xF000, 0xABCD, 0xF123, 0x0800, 0x0421] : List Pixel).map
        (fun p => (scale p .blue, scale p .green, scale p .red))
      = [(0x00, 0x00, 0x00), (0xFF, 0xFF, 0xFF), (0x00, 0xFF, 0x00), (0x00, 0x00, 0x00),
         (0xDD, 0xCC, 0xBB), (0x33, 0x22, 0x11), (0x00, 0x00, 0x88), (0x11, 0x22, 0x44)] := by
  decide
/-- S10, S11. -/
theorem test_S10_selector_3_refused : scaleSel 0x0FFF 3 = none := by decide
theorem test_S11_row_32_refused : extract [] 32 0 .blue = none ∧ extract [] 0 32 .blue = none := by
  decide
/-- X1. -/
theorem test_X1_traversal :
    [0, 1, 2, 3, 95, 96, 97, 1535, 1536, 3069, 3071].map placeOf
      = [⟨0, 0, .blue⟩, ⟨0, 0, .green⟩, ⟨0, 0, .red⟩, ⟨1, 0, .blue⟩, ⟨31, 0, .red⟩, ⟨0, 1, .blue⟩,
         ⟨0, 1, .green⟩, ⟨31, 15, .red⟩, ⟨0, 16, .blue⟩, ⟨31, 31, .blue⟩, ⟨31, 31, .red⟩] := by
  decide
/-- D15, R55: stream byte 5 is red of position (1, 0), which is row 0, column 1. -/
theorem test_pixByte_row_is_y :
    pixByte (Memory.writePixel [] (pixelIndex 0 1) 0x0A00) 5 = 0xAA ∧
    pixByte (Memory.writePixel [] (pixelIndex 1 0) 0x0A00) 5 = 0x00 := by decide
/-- X2: the write frames of groups 1, 47 and 1535. -/
theorem test_X2_groups : [7, 145, 4609].map groupOf = [1, 47, 1535] := by decide
/-- B4's point: position (1, 0) reads `M[row 0][col 1]`. -/
theorem test_B4_x_is_column : (placeOf 3).index = 1 ∧ (placeOf 96).index = 32 := by decide
/-- H6: `HDR_XPPM` = 2835 changes bytes 38..41 to `13 0B 00 00`. -/
theorem test_H6_xppm :
    ((hdrRom { xppm := 2835 }).drop 38).take 4 = [0x13, 0x0B, 0x00, 0x00] := by decide
/-- Q7a: a name of raw frame bytes is read back by the observer. -/
theorem test_Q7a_observer_reads_raw_name :
    splitTrace [0x57, 0xAB, 0x2F, 0x2F, 0x2F, 0x57, 0xAB, 0x00, 0x57, 0xAB, 0x36]
      = ([filenameFrame [0x2F, 0x57, 0xAB]], [0x57, 0xAB, 0x36]) := by decide
theorem test_pixel_layout :
    Memory.writePixel [] (pixelIndex 0 1) 0x0A00 = [(3, 0x0A)] ∧
    Memory.wf (Memory.writePixel [] (pixelIndex 31 31) 0xFFFF) = true := by decide

/-! ### Witnesses: the hypotheses of each statement are met -/

theorem witness_codings : (Instr.close 0xA5).wf = true ∧ Instr.fSetFilename.wf = true := by decide
theorem witness_observer :
    framesWf 0 ([filenameFrame [0x41]] ++ writeChunk 54 (hdrRom {}) ++ writeChunk 2 [0x57, 0xAB]
      ++ [closeFrame 0]) = true := by decide
theorem witness_ready : Ready (idleIn .closed) ∧ Ready (idleIn .idle) := by
  unfold Ready; decide
theorem witness_legal_states :
    ∀ st, Ready (idleIn st) ∧ (idleIn st).st = st := by
  intro st
  exact ⟨⟨rfl, rfl⟩, rfl⟩
theorem witness_illegal :
    ¬((0 : BitVec 3) ≠ 0#3 ∧ Session.code (idleIn .closed).st = 0 - 1#3) ∧
    ¬((7 : BitVec 3) ≠ 0#3 ∧ Session.code (idleIn .fileNamed).st = 7 - 1#3) ∧
    ¬((1 : BitVec 3) ≠ 0#3 ∧ Session.code (idleIn .closed).st = 1 - 1#3) := by decide
theorem witness_close_before_writing :
    (idleIn .fileNamed).st ≠ .writing ∧ (idleIn .fileNamed).st ≠ .closed := by decide
theorem witness_waiting_request :
    (busyAt 6 0 0 .send).busy = true ∧
    ({ idleIn .idle with inp := ⟨true, true, true, true⟩ } : State).inp.rst = true := by decide
theorem witness_op_not_close : (6 : BitVec 3) ≠ 7#3 ∧ (6 : BitVec 3) ≠ 5#3 := by decide
theorem witness_request_next :
    (∃ t, exec (requestOf 1 0) (idleIn .idle) = .next t) ∧ outcome 1 (idleIn .idle).st = none ∧
    (∃ t, exec (requestOf 2 0) (idleIn .idle) = .next t) ∧ outcome 2 (idleIn .idle).st ≠ none :=
  ⟨⟨_, rfl⟩, by decide, ⟨_, rfl⟩, by decide⟩
/-- Each operation runs at its frames, at the first and the last byte and in the settle wait. -/
theorem witness_running (op : BitVec 3) (fi bi : Nat) (ph : Phase) :
    Running (busyAt op fi bi ph) op fi ∧ (busyAt op fi bi ph).pos.ph = ph ∧
    (busyAt op fi bi ph).pos.bi = bi := ⟨⟨rfl, rfl, rfl, rfl⟩, rfl, rfl⟩
theorem witness_byte_on_offer :
    [(busyAt 1 0 0 .send).txOffer, (busyAt 1 0 2 .send).txOffer, (busyAt 2 0 3 .send).txOffer,
      (busyAt 3 0 2 .send).txOffer, (busyAt 4 0 2 .send).txOffer, (busyAt 5 0 3 .send).txOffer,
      (busyAt 6 0 4 .send).txOffer, (busyAt 6 1 56 .send).txOffer, (busyAt 6 4609 4 .send).txOffer,
      (busyAt 6 4612 4 .send).txOffer, (busyAt 6 4613 2 .send).txOffer,
      (busyAt 7 0 3 .send).txOffer]
      = [some 0x57, some 0x05, some 0x06, some 0x31, some 0x34, some 0x2F, some 0x00, some 0x00,
         some 0x00, some 0x00, some 0x3D, some 0x00] := by decide
theorem witness_frame_places :
    [0, 1, 2, 3, 4, 4609, 4611, 4612, 4613, 4614].map (frameAt 6)
      = [some .fDeclareLen, some .fWriteData, some .fUpdatePtr, some .fDeclareLen,
         some .fWriteData, some .fWriteData, some .fDeclareLen, some .fWriteData,
         some .fUpdatePtr, none] := by decide
theorem witness_group_bounds : 0 < 1538 ∧ 1537 < 1538 ∧ 1535 < 1536 ∧ 3 + 3 * 1535 + 1 = 4609 := by
  decide
theorem witness_name_byte_waiting :
    let s : State := { busyAt 5 0 4 .send with names := [0x41, 0x00] }
    Running s 5 0 ∧ s.pos.ph = .send ∧ 4 ≤ s.pos.bi ∧ s.nmQ = none ∧ s.inp.nmValid = true ∧
      s.names = 0x41 :: [0x00] := by
  refine ⟨⟨rfl, rfl, rfl, rfl⟩, rfl, ?_, rfl, rfl, rfl⟩
  decide
theorem witness_name_source_silent :
    (busyAt 5 0 4 .send).names = [] ∧ (busyAt 5 0 4 .send).nmReady = true ∧
    (busyAt 5 0 4 .send).nmOffer = none := by decide
theorem witness_name_byte_held :
    let s : State := { busyAt 5 0 4 .send with nmQ := some 0x41 }
    Running s 5 0 ∧ s.pos.ph = .send ∧ 4 ≤ s.pos.bi ∧ s.nmQ = some 0x41 := by
  refine ⟨⟨rfl, rfl, rfl, rfl⟩, rfl, ?_, rfl⟩
  decide
theorem witness_frame_rows :
    (∃ op, frameInstr op = some .fMount) ∧ (∃ op, frameInstr op = some .fSetFilename) ∧
    (∃ t, exec .fMount (busyAt 3 0 0 .send) = .next t) ∧
    (busyAt 3 0 0 .send).due ≠ some .fSetFilename :=
  ⟨⟨0x31, rfl⟩, ⟨0x2F, rfl⟩, ⟨_, rfl⟩, by decide⟩
/-- A step with a request, a step of a frame, an idle step, a block reset: each has a next state. -/
theorem witness_steps :
    (∃ t, step { idleIn .idle with reqs := [0x100] } = .next t) ∧
    (∃ t, step (busyAt 3 0 0 .send) = .next t) ∧
    (∃ t, step (idleIn .closed) = .next t) ∧
    (∃ t, step { idleIn .closed with reqs := [0x100] } = .next t) ∧
    (∃ t, step { idleIn .idle with inp := ⟨true, true, true, true⟩ } = .next t) :=
  ⟨⟨_, rfl⟩, ⟨_, rfl⟩, ⟨_, rfl⟩, ⟨_, rfl⟩, ⟨_, rfl⟩⟩
theorem witness_fetched :
    (idleIn .idle).inp.rst = false ∧
    ({ idleIn .idle with reqs := [0x100] } : State).reqs = 0x100 :: [] ∧
    frameAt (busyAt 6 4613 0 .send).curOp (busyAt 6 4613 0 .send).pos.fi = some .fUpdatePtr ∧
    (idleIn .idle).reqs = [] := by decide
theorem witness_byte_held_over_an_edge :
    let s : State := { busyAt 3 0 2 .send with inp := ⟨false, true, false, true⟩ }
    s.inp.rst = false ∧ s.inp.txReady = false ∧ s.txOffer = some 0x31 ∧
      (after (step s)).map (fun t => t.inp.rst) = some false := by decide
theorem witness_settling :
    (busyAt 6 4613 3 .settle).busy = true ∧ (busyAt 6 4613 3 .settle).pos.ph = .settle := by decide
theorem witness_err_set :
    let s : State := { idleIn .idle with err := true, ecause := .outOfOrder, reqs := [0x000] }
    s.inp.rst = false ∧ s.err = true ∧ (∃ t, step s = .next t) ∧ ErrMatchesCause s := by
  refine ⟨rfl, rfl, ⟨_, rfl⟩, ?_⟩
  unfold ErrMatchesCause
  decide
theorem witness_stalls :
    let s : State := { busyAt 3 0 2 .send with inp := ⟨false, true, false, true⟩ }
    s.sched = [] ∧ s.txOffer.isSome = true ∧ s.inp.txReady = false ∧
      (idleIn .closed).busy = false ∧ (idleIn .closed).reqOffer = none := by decide

/-- RESET in progress, one byte sent. -/
def oneByteSent : State := { busyAt 1 0 1 .send with trace := [0x57] }

theorem witness_control_inv : ControlInv oneByteSent ∧ ∃ t, step oneByteSent = .next t := by
  refine ⟨⟨?_, ?_, ?_, ?_, ?_⟩, ⟨_, rfl⟩⟩
  · unfold ErrMatchesCause; decide
  · intro _
    refine ⟨by decide, by decide, .fReset, by decide, ?_⟩
    intro f hf
    cases hf
    decide
  · intro h
    exact absurd h (by decide)
  · intro _
    rfl
  · decide

theorem witness_session_inv : SessionInv oneByteSent := by
  refine ⟨witness_control_inv.1, [], by decide, ?_⟩
  unfold TraceIsSession
  refine (if_pos (by decide)).mpr ⟨by decide, resetFrame, by decide, by decide, by decide⟩

theorem witness_same_low_bits :
    ∀ a, Memory.readPixel [(1, 0xF0)] a &&& 0x0FFF
      = Memory.readPixel (busyAt 6 4 3 .send).mem a &&& 0x0FFF := by
  intro a
  by_cases h : a.toNat = 0
  · have ha : a = 0 := BitVec.eq_of_toNat_eq h
    subst ha
    decide
  · have h2 : 1 ≠ 2 * a.toNat := by omega
    simp [Memory.readPixel, Memory.readByte, h, h2, busyAt, State.reset]

theorem witness_pixel_addresses :
    [busyAt 6 4 3 .send, busyAt 6 4 4 .send, busyAt 6 4609 4 .send, busyAt 6 1 3 .send].map
        State.pxAddr
      = [some 0, some 0, some 1023, none] := by decide
theorem witness_not_writebmp : (busyAt 5 0 0 .send).curOp ≠ 6#3 := by decide
theorem witness_domain : 32 ≤ 32 ∧ (3071 : Nat) < 3072 := by decide
/-- The first byte of group 0 and the second of group 1535. -/
theorem witness_data_bytes :
    Running (busyAt 6 4 3 .send) 6 (3 + 3 * 0 + 1) ∧ (busyAt 6 4 3 .send).pos.bi = 3 + 0 ∧
    Running (busyAt 6 4609 4 .send) 6 (3 + 3 * 1535 + 1) ∧
    (busyAt 6 4609 4 .send).pos.bi = 3 + 1 := ⟨⟨rfl, rfl, rfl, rfl⟩, rfl, ⟨rfl, rfl, rfl, rfl⟩, rfl⟩
/-- A request that is accepted and moves the session (R22), at the last state that can move. -/
theorem witness_session_moves :
    let s : State := { idleIn .writing with reqs := [0x7A5] }
    s.inp.rst = false ∧ s.reqOffer = some 0x7A5 ∧
      (after (step s)).map (fun t => (t.st, t.busy, t.curOp, t.reqs)) = some (.closed, true, 7, []) := by
  decide
theorem witness_willing (op : BitVec 3) :
    Willing (busyAt op 0 0 .send) ∧ Running (busyAt op 0 0 .send) op 0 ∧
    (busyAt op 0 0 .send).pos.bi = 0 ∧ (busyAt op 0 0 .send).pos.ph = .send :=
  ⟨⟨rfl, rfl⟩, ⟨rfl, rfl, rfl, rfl⟩, rfl, rfl⟩
theorem witness_named_run :
    let s : State := { busyAt 5 0 0 .send with names := [0x41, 0x2F] ++ 0 :: [0x43] }
    Willing s ∧ Running s 5 0 ∧ s.nmQ = none ∧ nameWf [0x41, 0x2F] = true ∧
      s.names = [0x41, 0x2F] ++ 0 :: [0x43] := by
  refine ⟨⟨rfl, rfl⟩, ⟨rfl, rfl, rfl, rfl⟩, rfl, ?_, rfl⟩
  decide

end Sys2Proof.Tests
end

/-! PROOFS. What an emission and a step leave unchanged: the frame of the Command Primitive (R110, R145)
and the stores no step writes (R14, R33, R54). -/

namespace Sys2Proof.Machine

/-! The transactions of an emission, each within the emission frame. -/

theorem EmissionFrame.refl (s : State) : EmissionFrame s s := by
  simp [EmissionFrame]

theorem emissionFrame_acceptByte (b : Byte) (last : Bool) (op : Byte) (s : State) :
    EmissionFrame s (s.acceptByte b last op) := by
  simp [EmissionFrame]

theorem emissionFrame_acceptNameByte (b : Byte) (s : State) :
    EmissionFrame s (s.acceptNameByte b) := by
  simp [EmissionFrame]

theorem emissionFrame_takeName (b : Byte) (s : State) : EmissionFrame s (s.takeName b) := by
  simp [EmissionFrame]

theorem emissionFrame_expireSettle (s : State) : EmissionFrame s s.expireSettle := by
  simp [EmissionFrame]

theorem emissionFrame_sendByte (b : Byte) (last : Bool) (op : Byte) (s : State) :
    EmissionFrame s (sendByte b last op s) := by
  rcases sendByte_cases b last op s with ⟨_, h⟩ | ⟨_, h⟩ <;> rw [h]
  · exact emissionFrame_acceptByte b last op s
  · exact .refl s

theorem emissionFrame_nameLoop (s : State) : EmissionFrame s (nameLoop s) := by
  rcases nameLoop_cases s with ⟨b, _, _, h⟩ | ⟨_, _, _, h⟩ | ⟨b, _, _, h⟩ | ⟨_, _, h⟩ <;> rw [h]
  · exact emissionFrame_acceptNameByte b s
  · exact .refl s
  · exact emissionFrame_takeName b s
  · exact .refl s

@[simp] theorem sendByte_names (b : Byte) (last : Bool) (op : Byte) (s : State) :
    (sendByte b last op s).names = s.names := by
  rcases sendByte_cases b last op s with ⟨_, h⟩ | ⟨_, h⟩ <;> simp [h]

@[simp] theorem sendByte_nmQ (b : Byte) (last : Bool) (op : Byte) (s : State) :
    (sendByte b last op s).nmQ = s.nmQ := by
  rcases sendByte_cases b last op s with ⟨_, h⟩ | ⟨_, h⟩ <;> simp [h]

/-! The two emission shapes. -/

theorem emitFrame_emissionFrame {i : Instr} {f : Frame} {s t : State}
    (h : emitFrame i f s = .next t) : EmissionFrame s t := by
  obtain ⟨_, rfl⟩ | ⟨_, _, _, rfl⟩ | ⟨_, _, _, b, _, rfl⟩ := emitFrame_next h
  · exact .refl t
  · exact emissionFrame_expireSettle s
  · exact emissionFrame_sendByte b _ f.op s

/-- A frame with a fixed image never touches the name source or the held name byte (R61, R145). -/
theorem emitFrame_names_nmQ {i : Instr} {f : Frame} {s t : State}
    (h : emitFrame i f s = .next t) : t.names = s.names ∧ t.nmQ = s.nmQ := by
  obtain ⟨_, rfl⟩ | ⟨_, _, _, rfl⟩ | ⟨_, _, _, b, _, rfl⟩ := emitFrame_next h <;> simp

theorem emitFilename_emissionFrame {s t : State} (h : emitFilename s = .next t) :
    EmissionFrame s t := by
  obtain ⟨_, rfl⟩ | ⟨_, _, _, rfl⟩ | ⟨_, _, _, b, _, rfl⟩ | ⟨_, _, _, _, rfl⟩ :=
    emitFilename_next h
  · exact .refl t
  · exact emissionFrame_expireSettle s
  · exact emissionFrame_sendByte b false 0x2F#8 s
  · exact emissionFrame_nameLoop s

/-- Every frame row but F_SET_FILENAME has its frame in the state (R86, R87). -/
theorem frameOf_of_frameInstr {op : Byte} {i : Instr} (h : frameInstr op = some i) (s : State) :
    i = .fSetFilename ∨ ∃ f, frameOf i s = some f := by
  unfold frameInstr at h
  split at h <;> cases h <;> simp [frameOf]

/-- Settles O24: a frame row is the set-filename emission or the Command Primitive on a fixed image,
and each of their transactions keeps the emission frame. -/
theorem emissionLeavesEverythingElse : Obligations.EmissionLeavesEverythingElse := by
  rintro i s t ⟨op, hop⟩ h
  obtain rfl | ⟨f, hf⟩ := frameOf_of_frameInstr hop s
  · exact ⟨emitFilename_emissionFrame h, fun hne => absurd rfl hne⟩
  · rw [exec_of_frameOf hf] at h
    exact ⟨emitFrame_emissionFrame h, fun _ => emitFrame_names_nmQ h⟩

/-- The stores are part of the emission frame, and the edge's end does not write them. -/
theorem EmissionFrame.tick_stores {s t : State} (h : EmissionFrame s t) :
    t.tick.hdr = s.hdr ∧ ∀ a, Memory.readByte t.tick.mem a = Memory.readByte s.mem a := by
  obtain ⟨_, _, _, _, _, hhdr, hmem, _⟩ := h
  exact ⟨hhdr, hmem⟩

/-- Settles O32: block reset and the acceptance or refusal of a request write neither store, and every
transaction of an emission keeps the emission frame. -/
theorem storesAreNeverWritten : Obligations.StoresAreNeverWritten := by
  intro s t h
  obtain ⟨_, rfl⟩ | ⟨_, _, _, rfl⟩ | ⟨_, _, _, w, _, ⟨_, rfl⟩ | ⟨c, _, rfl⟩⟩ |
    ⟨_, _, i, _, hsend⟩ := step_cases h
  case inr.inr.inr =>
    obtain ⟨_, rfl⟩ | ⟨_, _, f, b, _, _, rfl⟩ | ⟨_, _, b, _, rfl⟩ | ⟨_, _, _, rfl⟩ := hsend
    · exact (emissionFrame_expireSettle s).tick_stores
    · exact (emissionFrame_sendByte b _ f.op s).tick_stores
    · exact (emissionFrame_sendByte b false 0x2F#8 s).tick_stores
    · exact (emissionFrame_nameLoop s).tick_stores
  all_goals simp

end Sys2Proof.Machine

/-! PROOFS. The frame programs by index (R30, R190): which operation and place each frame row has, and
that the frame the machine runs at a place is the one the spec's list has there. -/

namespace Sys2Proof.Machine

/-! ### The eight operations and the places of their frames (R30) -/

theorem op_cases (op : BitVec 3) :
    op = 0 ∨ op = 1 ∨ op = 2 ∨ op = 3 ∨ op = 4 ∨ op = 5 ∨ op = 6 ∨ op = 7 := by
  revert op
  decide

theorem frameAt_zero_isSome {op : BitVec 3} (h : op ≠ 0#3) : (frameAt op 0).isSome = true := by
  revert op
  decide

/-- WRITEBMP's rows come in triples (R190). -/
theorem frameAt_writebmp (fi : Nat) :
    frameAt 6#3 fi
      = if fi < 4614 then [Instr.fDeclareLen, .fWriteData, .fUpdatePtr][fi % 3]? else none := by
  have hr : fi % 3 = 0 ∨ fi % 3 = 1 ∨ fi % 3 = 2 := by omega
  rcases hr with hr | hr | hr <;> simp [frameAt, Config.nWriteFrames, hr]

theorem frameAt_eq_fSetFilename {op : BitVec 3} {fi : Nat} :
    frameAt op fi = some .fSetFilename ↔ op = 5#3 ∧ fi = 0 := by
  by_cases h6 : op = 6#3
  · subst h6
    have hr : fi % 3 = 0 ∨ fi % 3 = 1 ∨ fi % 3 = 2 := by omega
    rcases hr with hr | hr | hr <;> simp [frameAt_writebmp, hr]
  · rcases op_cases op with rfl | rfl | rfl | rfl | rfl | rfl | rfl | rfl <;> simp_all [frameAt]

/-- An operation is in progress, and its program has the frame at `pos.fi` (R29, R30). -/
theorem due_eq_some {s : State} {i : Instr} :
    s.due = some i ↔ s.busy = true ∧ frameAt s.curOp s.pos.fi = some i := by
  simp [State.due]

/-! ### The write program as 1538 triples (R181, R190) -/

/-- The three frames of triple `j`: the header's, a group's or the trailer's (R190). -/
def writeTriple (h : HdrParams) (m : Memory) (j : Nat) : List Frame :=
  writeChunk (declaredLen (3 * j)) (writePayload h m (3 * j + 1))

theorem writeTriple_header (h : HdrParams) (m : Memory) :
    writeTriple h m 0 = writeChunk 54 (hdrRom h) := rfl

theorem writeTriple_group (h : HdrParams) (m : Memory) {k : Nat} (hk : k < 1536) :
    writeTriple h m (k + 1) = writeChunk 2 [pixByte m (2 * k), pixByte m (2 * k + 1)] := by
  have hpix : ∀ fi, 3 ≤ fi → fi < 4611 → wphOf fi = .pix := by
    intro fi hlo hhi
    simp [wphOf, Config.nGroups, hhi, Nat.not_lt.mpr hlo]
  have hg : groupOf (3 * (k + 1) + 1) = k := by
    unfold groupOf
    omega
  simp [writeTriple, declaredLen, writePayload, hpix (3 * (k + 1)) (by omega) (by omega),
    hpix (3 * (k + 1) + 1) (by omega) (by omega), hg]

theorem writeTriple_trailer (h : HdrParams) (m : Memory) :
    writeTriple h m 1537 = writeChunk 2 [0x00, 0x00] := rfl

theorem writeProgram_eq_triples (h : HdrParams) (m : Memory) :
    writeProgram h m = (List.range 1538).flatMap (writeTriple h m) := by
  have hgroups : (List.range 1536).flatMap (fun k => writeTriple h m (k + 1))
      = (List.range Config.nGroups).flatMap
          (fun k => writeChunk 2 [pixByte m (2 * k), pixByte m (2 * k + 1)]) :=
    List.flatMap_congr fun k hk => writeTriple_group h m (List.mem_range.mp hk)
  rw [List.range_succ, List.range_succ_eq_map, List.flatMap_append, List.flatMap_cons,
    List.flatMap_map, List.flatMap_singleton, hgroups, writeTriple_header, writeTriple_trailer]
  rfl

theorem length_flatMap_range_triples {α : Type} {g : Nat → List α} (hg : ∀ j, (g j).length = 3)
    (n : Nat) : ((List.range n).flatMap g).length = 3 * n := by
  simp [List.length_flatMap, hg, Nat.mul_comm]

/-- Indexing a list put together from triples. -/
theorem getElem?_flatMap_range_triples {α : Type} {g : Nat → List α} (hg : ∀ j, (g j).length = 3)
    (n i : Nat) :
    ((List.range n).flatMap g)[i]? = if i < 3 * n then (g (i / 3))[i % 3]? else none := by
  induction n with
  | zero => simp
  | succ n ih =>
    rw [List.range_succ, List.flatMap_append, List.flatMap_singleton, List.getElem?_append,
      length_flatMap_range_triples hg, ih]
    by_cases hin : i < 3 * n
    · simp [hin, show i < 3 * (n + 1) by omega]
    · by_cases hlast : i < 3 * (n + 1)
      · have hdiv : i / 3 = n := by omega
        have hmod : i - 3 * n = i % 3 := by omega
        simp [hin, hlast, hdiv, hmod]
      · simp [hin, hlast, hg]
        omega

theorem writeProgram_length (h : HdrParams) (m : Memory) : (writeProgram h m).length = 4614 := by
  rw [writeProgram_eq_triples, length_flatMap_range_triples fun _ => rfl]

/-- The write program's frame at index `fi` is frame `fi % 3` of triple `fi / 3` (R190). -/
theorem writeProgram_getElem? (h : HdrParams) (m : Memory) (fi : Nat) :
    (writeProgram h m)[fi]? = if fi < 4614 then (writeTriple h m (fi / 3))[fi % 3]? else none := by
  rw [writeProgram_eq_triples, getElem?_flatMap_range_triples (fun _ => rfl)]

/-! ### The machine's frame at a place is the listed one (R30) -/

/-- Settles O50: a one-frame operation has its frame at index 0 alone in both forms, and WRITEBMP's row
at `fi` is row `fi % 3` of the triple `fi / 3` in both. -/
theorem machineRunsTheListedPrograms : Obligations.MachineRunsTheListedPrograms := by
  intro s name op hop
  have hwrite : (frameAt 6#3 s.pos.fi).bind (fun i => frameOf i s)
      = (writeProgram s.hdr s.mem)[s.pos.fi]? := by
    rw [frameAt_writebmp, writeProgram_getElem?]
    have hr : s.pos.fi % 3 = 0 ∨ s.pos.fi % 3 = 1 ∨ s.pos.fi % 3 = 2 := by omega
    split
    · rcases hr with hr | hr | hr
      · have hfi : 3 * (s.pos.fi / 3) = s.pos.fi := by omega
        simp [hr, writeTriple, writeChunk, frameOf, hfi]
      · have hfi : 3 * (s.pos.fi / 3) + 1 = s.pos.fi := by omega
        simp [hr, writeTriple, writeChunk, frameOf, hfi]
      · simp [hr, writeTriple, writeChunk, frameOf]
    · rfl
  have hone : ∀ (i : Instr) (f : Frame), frameOf i s = some f →
      (if s.pos.fi = 0 then some i else none).bind (fun i => frameOf i s) = [f][s.pos.fi]? := by
    intro i f hf
    cases s.pos.fi <;> simp [hf]
  rcases op_cases op with rfl | rfl | rfl | rfl | rfl | rfl | rfl | rfl
  · rfl
  · exact hone .fReset resetFrame rfl
  · exact hone .fSetMode setModeFrame rfl
  · exact hone .fMount mountFrame rfl
  · exact hone .fCreate createFrame rfl
  · exact absurd rfl hop
  · exact hwrite
  · exact hone .fClose (closeFrame s.modeQ) rfl

end Sys2Proof.Machine

/-! PROOFS. One rule per outcome of the shared operations: a request that waits, begins or is refused
(R62, R131, R231), a settle wait that expires (R29, R113), a frame row out of its place (log 5), and the
edge that runs the fetched instruction (R70). -/

namespace Sys2Proof.Machine

open Sys2Proof.Claims

/-! ### The request port (R62, R131, R231) -/

theorem ready_iff_reqReady (s : State) : Ready s ↔ s.reqReady = true := by
  simp [Ready, State.reqReady]

theorem acceptRequest_of_not_ready {s : State} (h : s.reqReady = false) (op : BitVec 3) (arg : Byte) :
    acceptRequest op arg s = .next s := by
  simp [acceptRequest, h]

theorem acceptRequest_of_legal {op : BitVec 3} {s : State} (hr : s.reqReady = true)
    (ho : outcome op s.st = none) (arg : Byte) :
    acceptRequest op arg s = .next (s.takeRequest.acceptLegal op arg) := by
  simp [acceptRequest, hr, ho]

/-- Settles O8: CLOSE is the one legal request in `Writing`, and its acceptance latches the mode byte. -/
theorem closeBeginsInWritingAndLatchesMode :
    Obligations.CloseBeginsInWritingAndLatchesMode := by
  intro mode s hready hst
  have hlegal : outcome 7#3 s.st = none := by rw [hst]; rfl
  exact acceptRequest_of_legal ((ready_iff_reqReady s).mp hready) hlegal mode

/-- Settles O11: with `busy` or `rst` the port is not ready, so the request waits. -/
theorem requestWaitsWhileBusyOrReset : Obligations.RequestWaitsWhileBusyOrReset := by
  intro op arg s h
  have hwait : s.reqReady = false := by rcases h with h | h <;> simp [State.reqReady, h]
  rw [exec_requestOf, acceptRequest_of_not_ready hwait]

/-- Settles O13: a request waits and changes nothing, is accepted and leaves `err` and `ecause`, or is
refused and writes nothing else. -/
theorem requestLeavesEverythingElse : Obligations.RequestLeavesEverythingElse := by
  intro op arg s t h
  rw [exec_requestOf] at h
  obtain ⟨_, rfl⟩ | ⟨_, ho, rfl⟩ | ⟨_, c, ho, rfl⟩ := acceptRequest_next h
  · simp
  · simp +contextual [ho]
  · simp [ho]

/-! ### Settle waits and frames out of place (R29, R113; log 5) -/

/-- The settle wait of whatever frame is due expires in one step (R29, R113). -/
theorem exec_due_settle {i : Instr} {s : State} (hr : s.inp.rst = false) (hd : s.due = some i)
    (hp : s.pos.ph = .settle) : exec i s = .next s.expireSettle := by
  obtain rfl | ⟨f, hf⟩ := due_is_frame hd
  · show emitFilename s = _
    simp [emitFilename, hr, hd, hp]
  · simp [exec_of_frameOf hf, emitFrame, hr, hd, hp]

theorem expireSettle_last {s : State} (h : frameAt s.curOp (s.pos.fi + 1) = none) :
    s.expireSettle = afterLastSettle s := by
  simp [State.expireSettle, afterLastSettle, h]

theorem expireSettle_inner {s : State} (hb : s.busy = true)
    (h : (frameAt s.curOp (s.pos.fi + 1)).isSome = true) :
    s.expireSettle = afterInnerSettle s := by
  simp [State.expireSettle, afterInnerSettle, h, hb]

/-- The settle wait of frame `i` where its program has it and no frame after it. -/
theorem Running.exec_last_settle {s : State} {op : BitVec 3} {fi : Nat} (h : Running s op fi)
    {i : Instr} (hi : frameAt op fi = some i) (hnext : frameAt op (fi + 1) = none)
    (hp : s.pos.ph = .settle) : exec i s = .next (afterLastSettle s) := by
  obtain ⟨hr, hb, rfl, rfl⟩ := h
  rw [exec_due_settle hr (due_eq_some.mpr ⟨hb, hi⟩) hp, expireSettle_last hnext]

/-- The settle wait of frame `i` where its program has it and another frame after it. -/
theorem Running.exec_inner_settle {s : State} {op : BitVec 3} {fi : Nat} (h : Running s op fi)
    {i : Instr} (hi : frameAt op fi = some i) (hnext : (frameAt op (fi + 1)).isSome = true)
    (hp : s.pos.ph = .settle) : exec i s = .next (afterInnerSettle s) := by
  obtain ⟨hr, hb, rfl, rfl⟩ := h
  rw [exec_due_settle hr (due_eq_some.mpr ⟨hb, hi⟩) hp, expireSettle_inner hb hnext]

/-- Settles O16: each of the five operations has its one frame at index 0 and none after it. -/
theorem oneFrameOperationsEndWithTheirSettle :
    Obligations.OneFrameOperationsEndWithTheirSettle := by
  intro s hp
  exact ⟨fun h => h.exec_last_settle rfl rfl hp, fun h => h.exec_last_settle rfl rfl hp,
    fun h => h.exec_last_settle rfl rfl hp, fun h => h.exec_last_settle rfl rfl hp,
    fun h => h.exec_last_settle rfl rfl hp⟩

/-! The rows of triple `j` of WRITEBMP (R190). -/

theorem frameAt_declare {j : Nat} (hj : j < 1538) : frameAt 6#3 (3 * j) = some .fDeclareLen := by
  simp [frameAt_writebmp, show 3 * j < 4614 by omega]

theorem frameAt_write {j : Nat} (hj : j < 1538) : frameAt 6#3 (3 * j + 1) = some .fWriteData := by
  simp [frameAt_writebmp, show 3 * j + 1 < 4614 by omega, show (3 * j + 1) % 3 = 1 by omega]

theorem frameAt_update {j : Nat} (hj : j < 1538) : frameAt 6#3 (3 * j + 2) = some .fUpdatePtr := by
  simp [frameAt_writebmp, show 3 * j + 2 < 4614 by omega, show (3 * j + 2) % 3 = 2 by omega]

/-- Settles O23: inside a triple the next row follows; after its update frame comes the next triple's
declare frame, and none after triple 1537. -/
theorem writerFramesSettleThenAdvance : Obligations.WriterFramesSettleThenAdvance := by
  intro s j hj hp
  refine ⟨fun h => h.exec_inner_settle (frameAt_declare hj) (by rw [frameAt_write hj]; rfl) hp,
    fun h => h.exec_inner_settle (frameAt_write hj) (by rw [frameAt_update hj]; rfl) hp,
    fun h => ?_⟩
  split
  · rename_i hlast
    subst hlast
    exact h.exec_last_settle (frameAt_update hj) rfl hp
  · have hnext : frameAt 6#3 (3 * j + 2 + 1) = some .fDeclareLen :=
      frameAt_declare (j := j + 1) (by omega)
    exact h.exec_inner_settle (frameAt_update hj) (by rw [hnext]; rfl) hp

/-- Settles O25: both emission shapes refuse a row that is not due. -/
theorem frameOutOfPlaceIsRefused : Obligations.FrameOutOfPlaceIsRefused := by
  rintro i s ⟨op, hop⟩ hr hd
  obtain rfl | ⟨f, hf⟩ := frameOf_of_frameInstr hop s
  · show emitFilename s = _
    simp [emitFilename, hr, hd]
  · simp [exec_of_frameOf hf, emitFrame, hr, hd]

/-! ### The edge (R70, R270) -/

theorem step_of_fetch {s : State} {i : Instr} (hr : s.inp.rst = false) (hf : s.fetch = some i) :
    step s = tickOutcome (exec i s) := by
  simp [step, hr, hf]

theorem step_of_idle {s : State} (hr : s.inp.rst = false) (hb : s.busy = false)
    (ho : s.reqOffer = none) : step s = .next s.tick := by
  simp [step, State.fetch, hr, hb, ho]

/-- Settles O26: the fetched instruction is the request on the port when idle and the frame at `pos`
when busy. -/
theorem stepRunsTheFetchedInstruction : Obligations.StepRunsTheFetchedInstruction := by
  intro s hr
  refine ⟨fun w rest hb hv hq => step_of_fetch hr ?_, fun i hb hi => step_of_fetch hr ?_,
    fun hb h => step_of_idle hr hb ?_⟩
  · simp [State.fetch, State.reqOffer, hb, hv, hq]
  · simp [State.fetch, hb, due_eq_some, hi]
  · rcases h with h | h <;> simp [State.reqOffer, h]

/-- An idle block at the start of a frame offers no byte and takes no name byte (R37, R58, R61). -/
theorem outputs_low_of_idle {s : State} (hb : s.busy = false) :
    s.txValid = false ∧ s.nmReady = false := by
  have hd : s.due = none := by simp [State.due, hb]
  refine ⟨?_, by simp [State.nmReady, hd]⟩
  cases hp : s.pos.ph <;> simp [State.txValid, State.txOffer, hd, hp]

/-- Settles O38: block reset writes the listed values, and an idle block drives no handshake. -/
theorem resetLeavesTheListedValues : Obligations.ResetLeavesTheListedValues := by
  refine ⟨fun s hr => ⟨s.blockReset.tick, by simp [step, hr], rfl, rfl, rfl, rfl, rfl, rfl, rfl, rfl,
    (outputs_low_of_idle rfl).1, (outputs_low_of_idle rfl).2, rfl, rfl⟩, ?_⟩
  decide

end Sys2Proof.Machine

/-! PROOFS. Every move a step can make, as one inductive relation, and the registers' invariants that
each move keeps (R22, R24, R25, R29, R31, R131, R145). -/

namespace Sys2Proof.Machine

/-! ### The moves of a step (R70, 92 D1) -/

/-- What one step can do to the state before the edge ends, each shared operation's outcome resolved:
nothing; a block reset; a request accepted or refused; a settle wait over; a byte of a fixed frame or of
the set-filename frame's lead accepted; a name byte accepted or taken. -/
inductive Move (s : State) : State → Prop
  | stay : Move s s
  | reset (hr : s.inp.rst = true) : Move s s.blockReset
  | begin (w : ReqWord) (hb : s.busy = false) (hq : s.reqReady = true) (hw : s.reqOffer = some w)
      (ho : outcome (reqOp w) s.st = none) :
      Move s (s.takeRequest.acceptLegal (reqOp w) (reqArg w))
  | refuse (w : ReqWord) (c : Cause) (hb : s.busy = false) (ho : outcome (reqOp w) s.st = some c) :
      Move s (s.takeRequest.refuse c)
  | settled (i : Instr) (hd : s.due = some i) (hp : s.pos.ph = .settle) : Move s s.expireSettle
  | sent (i : Instr) (f : Frame) (b : Byte) (hd : s.due = some i) (hp : s.pos.ph = .send)
      (hf : frameOf i s = some f) (hb : f.bytes[s.pos.bi]? = some b) :
      Move s (s.acceptByte b (s.pos.bi + 1 == f.bytes.length) f.op)
  | leadSent (b : Byte) (hd : s.due = some .fSetFilename) (hp : s.pos.ph = .send)
      (hb : nameLead[s.pos.bi]? = some b) : Move s (s.acceptByte b false 0x2F#8)
  | nameSent (b : Byte) (hd : s.due = some .fSetFilename) (hp : s.pos.ph = .send)
      (hlead : 4 ≤ s.pos.bi) (hq : s.nmQ = some b) : Move s (s.acceptNameByte b)
  | nameTaken (b : Byte) (hd : s.due = some .fSetFilename) (hp : s.pos.ph = .send)
      (hlead : 4 ≤ s.pos.bi) : Move s (s.takeName b)

theorem move_sendByte {s : State} {b : Byte} {last : Bool} {op : Byte}
    (h : Move s (s.acceptByte b last op)) : Move s (sendByte b last op s) := by
  obtain ⟨_, hs⟩ | ⟨_, hs⟩ := sendByte_cases b last op s <;> rw [hs]
  · exact h
  · exact .stay

theorem move_nameLoop {s : State} (hd : s.due = some .fSetFilename) (hp : s.pos.ph = .send)
    (hlead : 4 ≤ s.pos.bi) : Move s (nameLoop s) := by
  obtain ⟨b, hq, _, hs⟩ | ⟨_, _, _, hs⟩ | ⟨b, _, _, hs⟩ | ⟨_, _, hs⟩ := nameLoop_cases s <;> rw [hs]
  · exact .nameSent b hd hp hlead hq
  · exact .stay
  · exact .nameTaken b hd hp hlead
  · exact .stay

/-- Every step is a move and then the edge's end. -/
theorem step_move {s t : State} (h : step s = .next t) : ∃ u, Move s u ∧ t = u.tick := by
  obtain ⟨hr, rfl⟩ | ⟨_, _, _, rfl⟩ | ⟨_, hb, hq, w, hw, ⟨ho, rfl⟩ | ⟨c, ho, rfl⟩⟩ |
    ⟨_, _, i, hd, hframe⟩ := step_cases h
  case inr.inr.inr =>
    obtain ⟨hp, rfl⟩ | ⟨hp, _, f, b, hf, hb, rfl⟩ | ⟨hp, rfl, b, hb, rfl⟩ | ⟨hp, rfl, hlead, rfl⟩ :=
      hframe
    · exact ⟨_, .settled i hd hp, rfl⟩
    · exact ⟨_, move_sendByte (.sent i f b hd hp hf hb), rfl⟩
    · exact ⟨_, move_sendByte (.leadSent b hd hp hb), rfl⟩
    · exact ⟨_, move_nameLoop hd hp hlead, rfl⟩
  · exact ⟨_, .reset hr, rfl⟩
  · exact ⟨_, .stay, rfl⟩
  · exact ⟨_, .begin w hb hq hw ho, rfl⟩
  · exact ⟨_, .refuse w c hb ho, rfl⟩

/-! ### The session state (R22) -/

/-- Settles O33: of the moves outside block reset only the acceptance of a legal request writes `st`,
and legality puts its op one above the state. -/
theorem sessionMovesForwardByAcceptanceOnly :
    Obligations.SessionMovesForwardByAcceptanceOnly := by
  intro s t hr h
  obtain ⟨u, hm, rfl⟩ := step_move h
  cases hm with
  | reset hr' => simp [hr] at hr'
  | begin w _ hq hw ho =>
    obtain ⟨_, hopen, hcode⟩ := outcome_none ho
    have hop : reqOp w = Session.code s.st + 1 := by simp [hcode]
    refine .inr ⟨hopen, ?_, w, hq, hw, hop, rfl, rfl, rfl⟩
    simp [code_sessionOf, hop]
  | stay | refuse | settled | sent | leadSent | nameSent | nameTaken => exact .inl rfl

/-! ### `err` and `ecause` (R24, R25) -/

/-- A request is never refused with the code for no refusal (R25, R232). -/
theorem outcome_ne_noCause (op : BitVec 3) (st : Session) : outcome op st ≠ some .noCause := by
  cases st <;> revert op <;> decide

/-- Settles O34: only a refusal writes `ecause` outside block reset, and it keeps a first cause. -/
theorem firstCauseIsKeptUntilBlockReset : Obligations.FirstCauseIsKeptUntilBlockReset := by
  intro s t hr herr h
  obtain ⟨u, hm, rfl⟩ := step_move h
  cases hm with
  | reset hr' => simp [hr] at hr'
  | refuse w c => simp [herr]
  | stay | begin | settled | sent | leadSent | nameSent | nameTaken => exact ⟨herr, rfl⟩

theorem Move.errMatchesCause {s t : State} (hm : Move s t) (hs : ErrMatchesCause s) :
    ErrMatchesCause t := by
  cases hm with
  | reset => simp [ErrMatchesCause]
  | refuse w c _ ho =>
    have hc : c ≠ .noCause := by
      rintro rfl
      exact outcome_ne_noCause _ _ ho
    have hkept : (if s.err then s.ecause else c) ≠ .noCause := by
      cases herr : s.err
      · simpa using hc
      · exact fun h => by simp [hs.mpr h] at herr
    exact ⟨(fun hclear => nomatch hclear), fun hcause => absurd hcause hkept⟩
  | stay | begin | settled | sent | leadSent | nameSent | nameTaken => exact hs

/-- Settles O35: block reset clears both, and a refusal sets `err` with a cause in place. -/
theorem errAgreesWithCauseAlways : Obligations.ErrAgreesWithCauseAlways := by
  intro s t hs h
  obtain ⟨u, hm, rfl⟩ := step_move h
  exact hm.errMatchesCause hs

/-! ### The position (R29) -/

/-- `pos` lies within frame `f`: before its end while it is sent, at its end while it settles (R29). -/
def WithinFrame (f : Frame) (p : Pos) : Prop :=
  (p.ph = .send → p.bi < f.bytes.length) ∧ (p.ph = .settle → p.bi = f.bytes.length)

theorem Frame.bytes_length (f : Frame) : f.bytes.length = f.params.length + 3 := by
  simp [Frame.bytes, frameHead]

theorem withinFrame_start (f : Frame) (fi : Nat) : WithinFrame f ⟨fi, 0, .send⟩ := by
  simp [WithinFrame, Frame.bytes_length]

/-- After byte `bi` the position is at the next one, or in the settle wait if that was the last. -/
theorem withinFrame_next {f : Frame} {bi : Nat} {b : Byte} (h : f.bytes[bi]? = some b) (fi : Nat) :
    WithinFrame f ⟨fi, bi + 1, if bi + 1 == f.bytes.length then .settle else .send⟩ := by
  obtain ⟨hlt, _⟩ := List.getElem?_eq_some_iff.mp h
  by_cases hlast : bi + 1 = f.bytes.length
  · simp [WithinFrame, hlast]
  · simp [WithinFrame, hlast]
    omega

/-- A settle wait with another frame to come moves to that frame's start (R29). -/
theorem expireSettle_pos_of_next {s : State}
    (h : (frameAt s.curOp (s.pos.fi + 1)).isSome = true) :
    s.expireSettle.pos = ⟨s.pos.fi + 1, 0, .send⟩ := by
  simp [h]

theorem Move.posInProgram {s t : State} (hm : Move s t) (hs : PosInProgram s) : PosInProgram t := by
  cases hm with
  | stay | refuse | nameTaken => exact hs
  | reset => exact fun hb => by simp at hb
  | begin w _ _ _ ho =>
    obtain ⟨hop, _, _⟩ := outcome_none ho
    obtain ⟨i, hi⟩ := Option.isSome_iff_exists.mp (frameAt_zero_isSome hop)
    exact fun _ => ⟨hop, code_sessionOf _, i, hi, fun f _ => withinFrame_start f 0⟩
  | settled i hd hp =>
    intro hb
    obtain ⟨hbusy, _⟩ := due_eq_some.mp hd
    obtain ⟨hop, hst, _⟩ := hs hbusy
    obtain ⟨j, hj⟩ := Option.isSome_iff_exists.mp hb
    have hpos := expireSettle_pos_of_next hb
    refine ⟨hop, hst, j, by rw [hpos]; exact hj, fun f _ => ?_⟩
    rw [hpos]
    exact withinFrame_start f _
  | sent i f b hd hp hf hb =>
    intro hbusy
    obtain ⟨hop, hst, _⟩ := hs hbusy
    refine ⟨hop, hst, i, (due_eq_some.mp hd).2, fun g hg => ?_⟩
    obtain rfl : f = g := Option.some_injective _ (hf.symm.trans hg)
    exact withinFrame_next hb s.pos.fi
  | leadSent b hd | nameSent b hd =>
    intro hbusy
    obtain ⟨hop, hst, _⟩ := hs hbusy
    exact ⟨hop, hst, .fSetFilename, (due_eq_some.mp hd).2, fun _ hf => nomatch hf⟩

/-! ### The held name byte, the timer, the memory (R31, R51, R145) -/

/-- The set-filename frame is due in NAME only, as its one frame (R30). -/
theorem due_fSetFilename {s : State} (h : s.due = some .fSetFilename) :
    s.busy = true ∧ s.curOp = 5#3 ∧ s.pos.fi = 0 := by
  obtain ⟨hb, hat⟩ := due_eq_some.mp h
  exact ⟨hb, frameAt_eq_fSetFilename.mp hat⟩

/-- NAME has no frame of fixed bytes (R30, R145). -/
theorem curOp_ne_name {s : State} {i : Instr} {f : Frame} (hd : s.due = some i)
    (hf : frameOf i s = some f) : s.curOp ≠ 5#3 := by
  intro hop
  obtain ⟨_, hat⟩ := due_eq_some.mp hd
  obtain ⟨_, rfl⟩ : s.pos.fi = 0 ∧ Instr.fSetFilename = i := by simpa [hop, frameAt] using hat
  cases hf

theorem Move.heldByteInName {s t : State} (hm : Move s t) (hs : HeldByteInName s) :
    HeldByteInName t := by
  cases hm with
  | stay => exact hs
  | reset | nameSent => exact fun hheld => nomatch hheld
  | begin w hb | refuse w c hb =>
    intro hheld
    obtain ⟨hbusy, _⟩ := hs hheld
    simp [hb] at hbusy
  | settled i hd hp =>
    intro hheld
    obtain ⟨_, _, hsend, _⟩ := hs hheld
    simp [hp] at hsend
  | sent i f b hd hp hf hb =>
    intro hheld
    obtain ⟨_, hop, _⟩ := hs hheld
    exact absurd hop (curOp_ne_name hd hf)
  | leadSent b hd hp hb =>
    intro hheld
    obtain ⟨hbusy, hop, hp, hlead⟩ := hs hheld
    exact ⟨hbusy, hop, rfl, Nat.le_succ_of_le hlead⟩
  | nameTaken b hd hp hlead =>
    obtain ⟨hbusy, hop, _⟩ := due_fSetFilename hd
    exact fun _ => ⟨hbusy, hop, hp, hlead⟩

/-- Only the last byte of a frame starts the timer, and the settle wait with it (R31). -/
theorem timerAtRest_acceptByte {s : State} (hb : s.busy = true) (hp : s.pos.ph = .send)
    (hs : TimerAtRest s) (b : Byte) (last : Bool) (op : Byte) :
    TimerAtRest (s.acceptByte b last op) := by
  cases last
  · exact fun _ => hs (.inr hp)
  · simp [TimerAtRest, hb]

theorem Move.timerAtRest {s t : State} (hm : Move s t) (hs : TimerAtRest s) : TimerAtRest t := by
  cases hm with
  | stay | refuse | nameTaken => exact hs
  | reset | settled => exact fun _ => rfl
  | begin w hb => exact fun _ => hs (.inl hb)
  | sent _ _ _ hd hp | leadSent _ hd hp =>
    exact timerAtRest_acceptByte (due_eq_some.mp hd).1 hp hs _ _ _
  | nameSent b hd hp =>
    exact timerAtRest_acceptByte (due_eq_some.mp hd).1 hp hs b (b == 0) 0x2F#8

theorem Move.mem_eq {s t : State} (hm : Move s t) : t.mem = s.mem := by
  cases hm <;> rfl

theorem Move.controlInv {s t : State} (hm : Move s t) (hs : ControlInv s) : ControlInv t := by
  obtain ⟨herr, hpos, hheld, htimer, hmem⟩ := hs
  exact ⟨hm.errMatchesCause herr, hm.posInProgram hpos, hm.heldByteInName hheld,
    hm.timerAtRest htimer, hm.mem_eq ▸ hmem⟩

/-- Settles O41: each conjunct of the registers' invariant is kept by every move, and the edge's end
writes none of its registers. -/
theorem everyStepKeepsTheRegisterInvariant : Obligations.EveryStepKeepsTheRegisterInvariant := by
  intro s t hs h
  obtain ⟨u, hm, rfl⟩ := step_move h
  exact hm.controlInv hs

end Sys2Proof.Machine

/-! PROOFS. The trace since block reset is a session's (R29, R60, R131): how a program's sent part grows
byte by byte and frame by frame, how the name becomes known byte by byte (R145), and that every move
keeps the trace exact. -/

namespace Sys2Proof.Machine

/-! ### The sent part of a frame program (R29) -/

theorem framesBytes_take_succ {fs : List Frame} {fi : Nat} {f : Frame} (h : fs[fi]? = some f) :
    framesBytes (fs.take (fi + 1)) = framesBytes (fs.take fi) ++ f.bytes := by
  simp [List.take_add_one, h, framesBytes]

/-- The frames before `f`, and the first `bi` bytes of `f`. -/
theorem partBytes_of_getElem? {fs : List Frame} {p : Pos} {f : Frame} (h : fs[p.fi]? = some f) :
    partBytes fs p = framesBytes (fs.take p.fi) ++ f.bytes.take p.bi := by
  have hf : (fs.drop p.fi).take 1 = [f] := by
    obtain ⟨hlt, rfl⟩ := List.getElem?_eq_some_iff.mp h
    rw [List.drop_eq_getElem_cons hlt]
    rfl
  simp [partBytes, hf, framesBytes]

theorem partBytes_start (fs : List Frame) : partBytes fs ⟨0, 0, .send⟩ = [] := by
  simp [partBytes, framesBytes]

/-- An accepted byte extends the sent part by itself. -/
theorem partBytes_next_byte {fs : List Frame} {p : Pos} {f : Frame} {b : Byte}
    (hf : fs[p.fi]? = some f) (hb : f.bytes[p.bi]? = some b) (ph : Phase) :
    partBytes fs ⟨p.fi, p.bi + 1, ph⟩ = partBytes fs p ++ [b] := by
  rw [partBytes_of_getElem? (p := ⟨p.fi, p.bi + 1, ph⟩) hf, partBytes_of_getElem? hf,
    List.append_assoc, List.take_add_one, hb]
  rfl

/-- All bytes of a frame sent, the sent part is the frames up to it. -/
theorem partBytes_frame_end {fs : List Frame} {p : Pos} {f : Frame} (hf : fs[p.fi]? = some f)
    (hend : p.bi = f.bytes.length) : partBytes fs p = framesBytes (fs.take (p.fi + 1)) := by
  rw [partBytes_of_getElem? hf, framesBytes_take_succ hf, hend, List.take_length]

theorem partBytes_next_frame (fs : List Frame) (fi : Nat) :
    partBytes fs ⟨fi, 0, .send⟩ = framesBytes (fs.take fi) := by
  simp [partBytes]

/-! ### The programs of a session (R30, R130) -/

/-- The machine has a frame at each place of the listed program and at no other (R30). -/
theorem frameAt_isSome_iff (h : HdrParams) (m : Memory) (name : List Byte) (mode : Byte)
    (op : BitVec 3) (fi : Nat) :
    (frameAt op fi).isSome = true ↔ fi < (opProgram h m name mode op.toNat).length := by
  by_cases h6 : op = 6#3
  · subst h6
    show (frameAt 6#3 fi).isSome = true ↔ fi < (writeProgram h m).length
    have hr : fi % 3 < 3 := Nat.mod_lt _ (by decide)
    rw [frameAt_writebmp, writeProgram_length]
    split <;> simp [*]
  · rcases op_cases op with rfl | rfl | rfl | rfl | rfl | rfl | rfl | rfl <;>
      simp_all [frameAt, opProgram]

/-- The frame of fixed bytes that is due is the listed one. -/
theorem opProgram_of_due {s : State} {i : Instr} {f : Frame} (hd : s.due = some i)
    (hf : frameOf i s = some f) (name : List Byte) :
    (opProgram s.hdr s.mem name s.modeQ s.curOp.toNat)[s.pos.fi]? = some f := by
  obtain ⟨_, hat⟩ := due_eq_some.mp hd
  rw [← machineRunsTheListedPrograms s name s.curOp (curOp_ne_name hd hf), hat]
  exact hf

/-- Only NAME's program depends on the name (R30, R145). -/
theorem opProgram_name_irrel {op : Nat} (hop : op ≠ 5) (h : HdrParams) (m : Memory)
    (name name' : List Byte) (mode : Byte) :
    opProgram h m name mode op = opProgram h m name' mode op := by
  unfold opProgram
  split
  case h_5 => exact absurd rfl hop
  all_goals rfl

/-- Only CLOSE's program depends on the mode byte (R30, R221). -/
theorem opProgram_mode_irrel {op : Nat} (hop : op ≠ 7) (h : HdrParams) (m : Memory)
    (name : List Byte) (mode mode' : Byte) :
    opProgram h m name mode op = opProgram h m name mode' op := by
  unfold opProgram
  split
  case h_7 => exact absurd rfl hop
  all_goals rfl

/-- Before NAME the session's bytes do not depend on the name. -/
theorem sessionBytes_name_irrel {k : Nat} (hk : k ≤ 4) (h : HdrParams) (m : Memory)
    (name name' : List Byte) (mode : Byte) :
    sessionBytes h m name mode k = sessionBytes h m name' mode k :=
  List.flatMap_congr fun j hj => by
    have hlt := List.mem_range.mp hj
    rw [opProgram_name_irrel (by omega) h m name name']

/-- Before CLOSE the session's bytes do not depend on the mode byte. -/
theorem sessionBytes_mode_irrel {k : Nat} (hk : k ≤ 6) (h : HdrParams) (m : Memory)
    (name : List Byte) (mode mode' : Byte) :
    sessionBytes h m name mode k = sessionBytes h m name mode' k :=
  List.flatMap_congr fun j hj => by
    have hlt := List.mem_range.mp hj
    rw [opProgram_mode_irrel (by omega) h m name mode mode']

theorem sessionBytes_succ (h : HdrParams) (m : Memory) (name : List Byte) (mode : Byte) (k : Nat) :
    sessionBytes h m name mode (k + 1)
      = sessionBytes h m name mode k ++ framesBytes (opProgram h m name mode (k + 1)) := by
  simp [sessionBytes, List.range_succ]

/-! ### The trace of a session, idle and busy -/

theorem traceIsSession_of_idle {name : List Byte} {s : State} (hb : s.busy = false) :
    TraceIsSession name s ↔
      s.trace = sessionBytes s.hdr s.mem name s.modeQ (Session.code s.st).toNat := by
  simp [TraceIsSession, hb]

/-- The program of the operation in progress, for a name known as a whole. -/
def State.program (s : State) (name : List Byte) : List Frame :=
  opProgram s.hdr s.mem name s.modeQ s.curOp.toNat

/-- The bytes of the whole operations before the one in progress (R130). -/
def State.earlierBytes (s : State) (name : List Byte) : List Byte :=
  sessionBytes s.hdr s.mem name s.modeQ (s.curOp.toNat - 1)

theorem traceIsSession_of_busy {name : List Byte} {s : State} (hb : s.busy = true) :
    TraceIsSession name s ↔
      s.trace = s.earlierBytes name ++ partBytes (s.program name) s.pos ∧
        ∃ f, (s.program name)[s.pos.fi]? = some f ∧ WithinFrame f s.pos := by
  simp [TraceIsSession, State.earlierBytes, State.program, WithinFrame, hb]

theorem traceIsSession_blockReset (name : List Byte) (s : State) :
    TraceIsSession name s.blockReset := by
  rw [traceIsSession_of_idle rfl]
  rfl

theorem toNat_sub_one {op : BitVec 3} (h : op ≠ 0#3) : (op - 1#3).toNat = op.toNat - 1 := by
  revert op
  decide

/-- A begun operation has sent nothing, and the trace is that of the operations before it (R131). -/
theorem traceIsSession_acceptLegal {name : List Byte} {s : State} {op : BitVec 3}
    (hb : s.busy = false) (ho : outcome op s.st = none) (hs : TraceIsSession name s) (arg : Byte) :
    TraceIsSession name (s.acceptLegal op arg) := by
  obtain ⟨hop, _, hcode⟩ := outcome_none ho
  have hk : (Session.code s.st).toNat = op.toNat - 1 := by rw [hcode, toNat_sub_one hop]
  have hprog : 0 < ((s.acceptLegal op arg).program name).length :=
    (frameAt_isSome_iff _ _ _ _ _ _).mp (frameAt_zero_isSome hop)
  rw [traceIsSession_of_idle hb, hk] at hs
  rw [traceIsSession_of_busy rfl]
  refine ⟨?_, _, List.getElem?_eq_getElem hprog, withinFrame_start _ 0⟩
  rw [State.acceptLegal_pos, partBytes_start, List.append_nil]
  exact hs.trans (sessionBytes_mode_irrel (by have := op.isLt; omega) _ _ _ _ _)

/-- An accepted byte of the listed frame extends the trace by itself (R29, R60). -/
theorem traceIsSession_acceptByte {name : List Byte} {s : State} {f : Frame} {b : Byte} {last : Bool}
    (hbusy : s.busy = true) (hs : TraceIsSession name s)
    (hf : (s.program name)[s.pos.fi]? = some f) (hb : f.bytes[s.pos.bi]? = some b)
    (hlast : last = (s.pos.bi + 1 == f.bytes.length)) (op : Byte) :
    TraceIsSession name (s.acceptByte b last op) := by
  obtain ⟨htrace, _⟩ := (traceIsSession_of_busy hbusy).mp hs
  refine (traceIsSession_of_busy (s := s.acceptByte b last op) hbusy).mpr
    ⟨?_, f, hf, hlast ▸ withinFrame_next hb s.pos.fi⟩
  rw [State.acceptByte_trace, htrace, List.append_assoc, ← partBytes_next_byte hf hb]
  rfl

/-- A settle wait over, the next frame begins, or the operation joins the whole ones (R29). -/
theorem traceIsSession_expireSettle {name : List Byte} {s : State} (hbusy : s.busy = true)
    (hp : s.pos.ph = .settle) (hpos : PosInProgram s) (hs : TraceIsSession name s) :
    TraceIsSession name s.expireSettle := by
  obtain ⟨hop, hst, _⟩ := hpos hbusy
  obtain ⟨htrace, f, hf, _, hend⟩ := (traceIsSession_of_busy hbusy).mp hs
  rw [partBytes_frame_end hf (hend hp)] at htrace
  by_cases hnext : (frameAt s.curOp (s.pos.fi + 1)).isSome = true
  · have hlt : s.pos.fi + 1 < (s.program name).length := (frameAt_isSome_iff _ _ _ _ _ _).mp hnext
    rw [traceIsSession_of_busy hnext, expireSettle_pos_of_next hnext, partBytes_next_frame]
    exact ⟨htrace, _, List.getElem?_eq_getElem hlt, withinFrame_start _ _⟩
  · have hle : (s.program name).length ≤ s.pos.fi + 1 :=
      Nat.not_lt.mp fun hlt => hnext ((frameAt_isSome_iff _ _ _ _ _ _).mpr hlt)
    have hk : s.curOp.toNat = s.curOp.toNat - 1 + 1 := by
      have : s.curOp.toNat ≠ 0 := fun h => hop (BitVec.eq_of_toNat_eq h)
      omega
    rw [traceIsSession_of_idle (Bool.eq_false_iff.mpr hnext)]
    rw [List.take_of_length_le hle] at htrace
    show s.trace = sessionBytes s.hdr s.mem name s.modeQ (Session.code s.st).toNat
    rw [hst, hk, sessionBytes_succ, ← hk]
    exact htrace

/-! ### The name, known up to the byte being sent (R145) -/

/-- The bytes of a set-filename frame: its lead, the name, the terminator (R145). -/
theorem filenameFrame_bytes (name : List Byte) :
    (filenameFrame name).bytes = nameLead ++ name ++ [0] := rfl

/-- A name of which `n` bytes are sent, foretold again so that byte `b` is next: `b` is the byte after
them, or the terminator. -/
def foretell (name : List Byte) (n : Nat) (b : Byte) : List Byte :=
  name.take n ++ if b = 0 then [] else [b]

theorem nameWf_foretell {name : List Byte} (h : nameWf name = true) (n : Nat) (b : Byte) :
    nameWf (foretell name n b) = true := by
  have htake : ∀ c ∈ name.take n, c ≠ 0 := fun c hc => by
    simpa using List.all_eq_true.mp h c (List.mem_of_mem_take hc)
  by_cases hb : b = 0#8 <;> simpa [nameWf, foretell, hb] using htake

/-- The frame of a name foretold at byte `b`: the bytes sent before, then `b`, then the terminator
unless `b` is it. -/
theorem filenameFrame_foretell_bytes (name : List Byte) (n : Nat) (b : Byte) :
    (filenameFrame (foretell name n b)).bytes
      = (nameLead ++ name.take n) ++ b :: if b = 0 then [] else [0] := by
  by_cases hb : b = 0#8 <;> simp [filenameFrame_bytes, foretell, hb]

section
variable {name : List Byte} {n : Nat} (hn : n ≤ name.length)
include hn

theorem length_lead_append_take : (nameLead ++ name.take n).length = 4 + n := by
  simp [nameLead, hn]
  omega

/-- Foretelling the next byte leaves the bytes sent before it as they were. -/
theorem take_filenameFrame_foretell (b : Byte) :
    (filenameFrame (foretell name n b)).bytes.take (4 + n)
      = (filenameFrame name).bytes.take (4 + n) := by
  have hlen := length_lead_append_take hn
  have hname : (filenameFrame name).bytes = (nameLead ++ name.take n) ++ (name.drop n ++ [0]) := by
    rw [filenameFrame_bytes, List.append_assoc, List.append_assoc, ← List.append_assoc (name.take n),
      List.take_append_drop]
  rw [filenameFrame_foretell_bytes, hname, List.take_left' hlen, List.take_left' hlen]

/-- The foretold byte is the next one of its frame. -/
theorem getElem?_filenameFrame_foretell (b : Byte) :
    (filenameFrame (foretell name n b)).bytes[4 + n]? = some b := by
  rw [filenameFrame_foretell_bytes,
    List.getElem?_append_right (length_lead_append_take hn).le, length_lead_append_take hn]
  simp

/-- The foretold byte is the frame's last exactly when it is the terminator (R145). -/
theorem foretold_last_iff (b : Byte) :
    (b == 0) = (4 + n + 1 == (filenameFrame (foretell name n b)).bytes.length) := by
  rw [filenameFrame_foretell_bytes, List.length_append, length_lead_append_take hn]
  by_cases hb : b = 0#8 <;> simp [hb]

end

/-- NAME's program is the one set-filename frame (R30). -/
theorem program_of_fSetFilename {s : State} (hd : s.due = some .fSetFilename) (name : List Byte) :
    (s.program name)[s.pos.fi]? = some (filenameFrame name) := by
  obtain ⟨_, hop, hfi⟩ := due_fSetFilename hd
  rw [State.program, hop, hfi]
  rfl

/-- In NAME's set-filename frame, `n` bytes of the name sent, the trace is a session's for the name
foretold at any next byte. -/
theorem traceIsSession_foretell {name : List Byte} {s : State} {n : Nat}
    (hd : s.due = some .fSetFilename) (hp : s.pos.ph = .send) (hbi : s.pos.bi = 4 + n)
    (hs : TraceIsSession name s) (b : Byte) :
    n ≤ name.length ∧ TraceIsSession (foretell name n b) s := by
  obtain ⟨hbusy, hop, hfi⟩ := due_fSetFilename hd
  have hf := program_of_fSetFilename hd name
  have hf' := program_of_fSetFilename hd (foretell name n b)
  obtain ⟨htrace, f, hfound, hsend, _⟩ := (traceIsSession_of_busy hbusy).mp hs
  obtain rfl : filenameFrame name = f := Option.some_injective _ (hf.symm.trans hfound)
  have hn : n ≤ name.length := by
    have hlt := hsend hp
    simp [filenameFrame_bytes, nameLead] at hlt
    omega
  have hnext := getElem?_filenameFrame_foretell hn b
  refine ⟨hn, (traceIsSession_of_busy hbusy).mpr ⟨?_, _, hf', fun _ => ?_, by simp [hp]⟩⟩
  · have hearlier : s.earlierBytes name = s.earlierBytes (foretell name n b) :=
      sessionBytes_name_irrel (by rw [hop]; decide) _ _ _ _ _
    rw [htrace, hearlier, partBytes_of_getElem? hf, partBytes_of_getElem? hf', hfi, hbi,
      take_filenameFrame_foretell hn b]
    rfl
  · rw [hbi]
    exact (List.getElem?_eq_some_iff.mp hnext).1

/-- A lead byte is a byte of the set-filename frame and not its last, whatever the name (R145). -/
theorem filenameFrame_lead_byte {bi : Nat} {b : Byte} (h : nameLead[bi]? = some b)
    (name : List Byte) : (filenameFrame name).bytes[bi]? = some b ∧
      false = (bi + 1 == (filenameFrame name).bytes.length) := by
  obtain ⟨hlt, _⟩ := List.getElem?_eq_some_iff.mp h
  have hlt4 : bi < 4 := hlt
  constructor
  · rw [filenameFrame_bytes, List.append_assoc, List.getElem?_append_left hlt, h]
  · simp [filenameFrame_bytes, nameLead]
    omega

/-! ### Every move keeps the session's invariant -/

/-- A move keeps the trace a session's, for the name so far; the byte of the name being sent fixes one
byte more of it. -/
theorem Move.traceIsSession {s t : State} (hm : Move s t) (hpos : PosInProgram s)
    {name : List Byte} (hname : nameWf name = true) (hs : TraceIsSession name s) :
    ∃ name', nameWf name' = true ∧ TraceIsSession name' t := by
  cases hm with
  | stay | refuse | nameTaken => exact ⟨name, hname, hs⟩
  | reset => exact ⟨name, hname, traceIsSession_blockReset name s⟩
  | begin w hb _ _ ho =>
    exact ⟨name, hname, traceIsSession_acceptLegal (s := s.takeRequest) hb ho hs _⟩
  | settled i hd hp =>
    exact ⟨name, hname, traceIsSession_expireSettle (due_eq_some.mp hd).1 hp hpos hs⟩
  | sent i f b hd _ hf hb =>
    exact ⟨name, hname, traceIsSession_acceptByte (due_eq_some.mp hd).1 hs
      (opProgram_of_due hd hf name) hb rfl _⟩
  | leadSent b hd _ hb =>
    obtain ⟨hbyte, hlast⟩ := filenameFrame_lead_byte hb name
    exact ⟨name, hname, traceIsSession_acceptByte (due_eq_some.mp hd).1 hs
      (program_of_fSetFilename hd name) hbyte hlast _⟩
  | nameSent b hd hp hlead =>
    obtain ⟨n, hbi⟩ := Nat.exists_eq_add_of_le hlead
    obtain ⟨hn, hs'⟩ := traceIsSession_foretell hd hp hbi hs b
    have hbyte := getElem?_filenameFrame_foretell hn b
    have hlast := foretold_last_iff hn b
    rw [← hbi] at hbyte hlast
    exact ⟨_, nameWf_foretell hname n b, traceIsSession_acceptByte (due_eq_some.mp hd).1 hs'
      (program_of_fSetFilename hd _) hbyte hlast 0x2F#8⟩

theorem Move.sessionInv {s t : State} (hm : Move s t) (hs : SessionInv s) : SessionInv t := by
  obtain ⟨hctl, name, hname, htrace⟩ := hs
  have ⟨_, hpos, _⟩ := hctl
  exact ⟨hm.controlInv hctl, hm.traceIsSession hpos hname htrace⟩

/-- Settles O42: every move keeps the session's invariant, and the edge's end writes nothing of it. -/
theorem everyStepKeepsTheTraceASession : Obligations.EveryStepKeepsTheTraceASession := by
  intro s t hs h
  obtain ⟨u, hm, rfl⟩ := step_move h
  exact hm.sessionInv hs

theorem controlInv_reset : ControlInv State.reset :=
  ⟨⟨fun _ => rfl, fun _ => rfl⟩, (fun hb => nomatch hb), (fun hheld => nomatch hheld),
    fun _ => rfl, rfl⟩

/-- Settles O40: nothing is in progress after reset, and no operation's bytes are sent. -/
theorem resetMeetsTheSessionInvariant : Obligations.ResetMeetsTheSessionInvariant :=
  ⟨controlInv_reset, [], rfl, (traceIsSession_of_idle rfl).mpr rfl⟩

end Sys2Proof.Machine

/-! PROOFS. What one transaction of a frame that is due answers while it is sent: the byte at `bi`
of a fixed frame (R58, R110), a lead byte or one edge of NAME's loop in the set-filename frame (R145). -/

namespace Sys2Proof.Machine

open Sys2Proof.Claims

/-! ### The transactions of a frame being sent (R110, R145) -/

/-- The byte at `bi` of the frame that is due is offered to the sink (R58, R110). -/
theorem exec_due_byte {i : Instr} {f : Frame} {b : Byte} {s : State} (hr : s.inp.rst = false)
    (hd : s.due = some i) (hp : s.pos.ph = .send) (hf : frameOf i s = some f)
    (hb : f.bytes[s.pos.bi]? = some b) :
    exec i s = .next (sendByte b (s.pos.bi + 1 == f.bytes.length) f.op s) := by
  simp [exec_of_frameOf hf, emitFrame, hr, hd, hp, hb]

section
variable {s : State} (hr : s.inp.rst = false) (hd : s.due = some .fSetFilename)
  (hp : s.pos.ph = .send)
include hr hd hp

/-- A lead byte of the set-filename frame is offered to the sink (R145). -/
theorem exec_lead_byte {b : Byte} (hb : nameLead[s.pos.bi]? = some b) :
    exec .fSetFilename s = .next (sendByte b false 0x2F#8 s) := by
  show emitFilename s = _
  simp [emitFilename, hr, hd, hp, hb]

/-- After its lead the set-filename frame is one edge of NAME's loop (R145). -/
theorem exec_name_loop (hlead : 4 ≤ s.pos.bi) : exec .fSetFilename s = .next (nameLoop s) := by
  have hend : nameLead[s.pos.bi]? = none := List.getElem?_eq_none hlead
  show emitFilename s = _
  simp [emitFilename, hr, hd, hp, hend]

end

/-! ### The frames of fixed bytes (R133, R136, R139, R142, R181) -/

/-- A byte of a frame of `len` bytes, accepted or held, written out field by field (R29, R31). -/
theorem sendByte_eq_afterByte (b : Byte) (len : Nat) (op : Byte) (s : State) :
    sendByte b (s.pos.bi + 1 == len) op s
      = if s.inp.txReady then afterByte s b len (settleMs op) else s := by
  simp [sendByte, State.acceptByte, afterByte, settleCycles]

/-- A frame is due where the program of the operation running has it (R29, R30). -/
theorem Running.due {s : State} {op : BitVec 3} {fi : Nat} (h : Running s op fi) {i : Instr}
    (hi : frameAt op fi = some i) : s.due = some i := by
  obtain ⟨_, hb, rfl, rfl⟩ := h
  exact due_eq_some.mpr ⟨hb, hi⟩

/-- Where its program has it, a frame in the state is sent byte by byte (R58, R110). -/
theorem Running.sends {s : State} {op : BitVec 3} {fi : Nat} (h : Running s op fi) {i : Instr}
    {f : Frame} (hi : frameAt op fi = some i) (hf : frameOf i s = some f) :
    Sends i s f.bytes (settleMs f.op) := by
  have ⟨hr, _⟩ := h
  intro hp b hbyte
  rw [exec_due_byte hr (h.due hi) hp hf hbyte, sendByte_eq_afterByte]

/-- Settles O14: each of the four operations has its one frame at index 0. -/
theorem sessionFramesSendTheirBytes : Obligations.SessionFramesSendTheirBytes := by
  intro s
  exact ⟨fun h => h.sends (f := resetFrame) rfl rfl, fun h => h.sends (f := setModeFrame) rfl rfl,
    fun h => h.sends (f := mountFrame) rfl rfl, fun h => h.sends (f := createFrame) rfl rfl⟩

/-- The first triple declares the header's 54 bytes, every other 2 (R181, R190). -/
theorem declaredLen_triple (j : Nat) : declaredLen (3 * j) = if j = 0 then 54 else 2 := by
  cases j with
  | zero => rfl
  | succ j =>
    have hpast : ¬3 * (j + 1) < 3 := by omega
    by_cases hpix : 3 * (j + 1) < 3 + 3 * Config.nGroups <;>
      simp [declaredLen, wphOf, hpast, hpix]

/-- The bytes of a triple's declare frame, the length little-endian (R64, R181). -/
theorem declareFrame_triple_bytes (j : Nat) :
    (declareFrame (declaredLen (3 * j))).bytes
      = [0x57, 0xAB, 0x3C, if j = 0 then 54 else 2, 0] := by
  rw [declaredLen_triple]
  split <;> rfl

/-- Settles O20: row `3 * j` of WRITEBMP is the declare frame of triple `j`. -/
theorem declareFrameSendsTheLength : Obligations.DeclareFrameSendsTheLength := by
  intro s j hj h
  have ⟨_, _, _, hfi⟩ := h
  rw [← declareFrame_triple_bytes, ← hfi]
  exact h.sends (frameAt_declare hj) rfl

/-! ### The set-filename frame (R145, R146, R147) -/

/-- Settles O17: a lead byte is never the frame's last. -/
theorem filenameFrameBeginsWithItsMarker : Obligations.FilenameFrameBeginsWithItsMarker := by
  intro s b h hp hb
  have ⟨hr, _, _, hfi⟩ := h
  rw [exec_lead_byte hr (h.due rfl) hp hb, ← hfi]
  rfl

/-- Settles O18: with no byte held, NAME's loop takes the byte on offer or waits. -/
theorem filenameFrameTakesTheNextNameByte : Obligations.FilenameFrameTakesTheNextNameByte := by
  intro s h hp hlead hq
  have ⟨hr, _⟩ := h
  rw [exec_name_loop hr (h.due rfl) hp hlead]
  constructor
  · intro b rest hv hnames
    simp [nameLoop, State.nmOffer, State.takeName, hq, hv, hnames]
  · rintro (h | h) <;> simp [nameLoop, State.nmOffer, hq, h]

/-- Settles O19: with a byte held, NAME's loop offers it to the sink, and the 00 is the last. -/
theorem filenameFrameForwardsNameBytesRaw : Obligations.FilenameFrameForwardsNameBytesRaw := by
  intro s b h hp hlead hq
  have ⟨hr, _, _, hfi⟩ := h
  rw [exec_name_loop hr (h.due rfl) hp hlead, ← hfi]
  simp [nameLoop, State.acceptNameByte, State.acceptByte, settleCycles, settleMs, hq]

end Sys2Proof.Machine

/-! PROOFS. The three handshakes (R58, R61, R62): what the block drives in each place, and that a byte,
a name byte and a request move exactly when both sides of their handshake are up. -/

namespace Sys2Proof.Machine

/-! ### The byte on offer (R58) -/

section
variable {s : State}

theorem txOffer_of_not_due (hd : s.due = none) : s.txOffer = none := by
  cases hp : s.pos.ph <;> simp [State.txOffer, hd, hp]

theorem txOffer_of_settle (hp : s.pos.ph = .settle) : s.txOffer = none := by
  simp [State.txOffer, hp]

theorem txOffer_of_frame {i : Instr} {f : Frame} (hr : s.inp.rst = false) (hd : s.due = some i)
    (hp : s.pos.ph = .send) (hf : frameOf i s = some f) : s.txOffer = f.bytes[s.pos.bi]? := by
  have hi : i ≠ .fSetFilename := by rintro rfl; cases hf
  simp [State.txOffer, hr, hd, hp, hf]

theorem txOffer_of_lead (hr : s.inp.rst = false) (hd : s.due = some .fSetFilename)
    (hp : s.pos.ph = .send) (hlead : s.pos.bi < 4) : s.txOffer = nameLead[s.pos.bi]? := by
  simp [State.txOffer, hr, hd, hp, hlead]

theorem txOffer_of_name (hr : s.inp.rst = false) (hd : s.due = some .fSetFilename)
    (hp : s.pos.ph = .send) (hlead : 4 ≤ s.pos.bi) : s.txOffer = s.nmQ := by
  simp [State.txOffer, hr, hd, hp, Nat.not_lt.mpr hlead]

end

theorem due_of_idle {s : State} (hb : s.busy = false) : s.due = none := by
  simp [State.due, hb]

theorem lt_four_of_lead {bi : Nat} {b : Byte} (h : nameLead[bi]? = some b) : bi < 4 :=
  (List.getElem?_eq_some_iff.mp h).1

theorem not_rst_of_txOffer {s : State} {b : Byte} (h : s.txOffer = some b) : s.inp.rst = false := by
  cases hr : s.inp.rst
  · rfl
  · simp [State.txOffer, hr] at h

/-- Where a byte on offer comes from: a fixed frame, the set-filename frame's lead, or the held name
byte. -/
theorem txOffer_eq_some {s : State} {b : Byte} (h : s.txOffer = some b) :
    s.pos.ph = .send ∧ ∃ i, s.due = some i ∧
      ((∃ f, frameOf i s = some f ∧ f.bytes[s.pos.bi]? = some b) ∨
        (i = .fSetFilename ∧ nameLead[s.pos.bi]? = some b) ∨
        (i = .fSetFilename ∧ 4 ≤ s.pos.bi ∧ s.nmQ = some b)) := by
  have hr := not_rst_of_txOffer h
  cases hp : s.pos.ph with
  | settle => simp [txOffer_of_settle hp] at h
  | send =>
    cases hd : s.due with
    | none => simp [txOffer_of_not_due hd] at h
    | some i =>
      refine ⟨rfl, i, rfl, ?_⟩
      obtain rfl | ⟨f, hf⟩ := due_is_frame hd
      · obtain hlead | hlead := Nat.lt_or_ge s.pos.bi 4
        · exact .inr (.inl ⟨rfl, txOffer_of_lead hr hd hp hlead ▸ h⟩)
        · exact .inr (.inr ⟨rfl, hlead, txOffer_of_name hr hd hp hlead ▸ h⟩)
      · exact .inl ⟨f, hf, txOffer_of_frame hr hd hp hf ▸ h⟩

/-! ### The levels of the name source and the request port (R61, R62) -/

theorem nmReady_iff (s : State) :
    s.nmReady = true ↔ s.inp.rst = false ∧ s.due = some .fSetFilename ∧ s.pos.ph = .send ∧
      4 ≤ s.pos.bi ∧ s.nmQ = none := by
  simp [State.nmReady, and_assoc]

/-! ### What the shared operations do to the trace and the name source -/

theorem sendByte_trace (b : Byte) (last : Bool) (op : Byte) (s : State) :
    (sendByte b last op s).trace = s.trace ++ if s.inp.txReady = true then [b] else [] := by
  obtain ⟨hready, h⟩ | ⟨hready, h⟩ := sendByte_cases b last op s <;> simp [h, hready]

/-- NAME's loop sends the held byte when the sink is ready. -/
theorem nameLoop_trace (s : State) :
    (nameLoop s).trace = s.trace ++ if s.inp.txReady = true then s.nmQ.toList else [] := by
  obtain ⟨b, hq, hready, h⟩ | ⟨b, hq, hready, h⟩ | ⟨b, hq, _, h⟩ | ⟨hq, _, h⟩ :=
    nameLoop_cases s <;>
    simp [*]

/-- NAME's loop takes the name byte on offer when it holds none. -/
theorem nameLoop_names (s : State) :
    (nameLoop s).names
      = if s.nmQ = none ∧ s.nmOffer.isSome = true then s.names.tail else s.names := by
  obtain ⟨b, hq, _, h⟩ | ⟨b, hq, _, h⟩ | ⟨b, hq, ho, h⟩ | ⟨hq, ho, h⟩ := nameLoop_cases s <;>
    simp [*]

/-! ### The edge of a busy block -/

theorem step_of_due {s : State} {i : Instr} (hr : s.inp.rst = false) (hd : s.due = some i) :
    step s = tickOutcome (exec i s) :=
  step_of_fetch hr (by simp [State.fetch, (due_eq_some.mp hd).1, hd])

/-- A busy block's step is an emission's transaction and then the edge's end. -/
theorem step_busy_emissionFrame {s t : State} (hr : s.inp.rst = false) (hb : s.busy = true)
    (h : step s = .next t) : ∃ u, EmissionFrame s u ∧ t = u.tick := by
  obtain ⟨hr', _⟩ | ⟨_, _, hb', _⟩ | ⟨_, i, u, hf, he, rfl⟩ := step_next h
  · simp [hr] at hr'
  · simp [hb] at hb'
  · have hd : s.due = some i := by simpa [State.fetch, hb] using hf
    refine ⟨u, ?_, rfl⟩
    obtain rfl | ⟨f, hff⟩ := due_is_frame hd
    · exact emitFilename_emissionFrame he
    · rw [exec_of_frameOf hff] at he
      exact emitFrame_emissionFrame he

/-! ### Each handshake moves its byte or word, and nothing else does -/

/-- Settles O27: an idle or settling block offers nothing and sends nothing; a frame being sent, and
NAME's loop, append the byte on offer when the sink takes it. -/
theorem traceGrowsByTheAcceptedByte : Obligations.TraceGrowsByTheAcceptedByte := by
  intro s t hr h
  obtain ⟨hr', _⟩ | ⟨_, hb, _, rfl⟩ | ⟨_, hb, _, w, _, ⟨_, rfl⟩ | ⟨c, _, rfl⟩⟩ |
    ⟨_, hb, i, hd, hframe⟩ := step_cases h
  case inl => simp [hr] at hr'
  case inr.inr.inr =>
    obtain ⟨u, ⟨_, _, _, _, _, _, _, _, _, _, hsunk⟩, rfl⟩ := step_busy_emissionFrame hr hb h
    refine ⟨hsunk, ?_⟩
    obtain ⟨hp, ht⟩ | ⟨hp, _, f, b, hf, hbyte, ht⟩ | ⟨hp, rfl, b, hbyte, ht⟩ |
      ⟨hp, rfl, hlead, ht⟩ := hframe <;> rw [ht, State.tick_trace]
    · simp [txOffer_of_settle hp]
    · simp [sendByte_trace, txOffer_of_frame hr hd hp hf, hbyte]
    · simp [sendByte_trace, txOffer_of_lead hr hd hp (lt_four_of_lead hbyte), hbyte]
    · simp [nameLoop_trace, txOffer_of_name hr hd hp hlead]
  all_goals simp [txOffer_of_not_due (due_of_idle hb)]

/-- Settles O29: only NAME's loop takes a name byte, and `nm_ready` is up only there. -/
theorem nameByteTakenByHandshakeOnly : Obligations.NameByteTakenByHandshakeOnly := by
  intro s t h
  obtain ⟨hr, rfl⟩ | ⟨_, hb, _, rfl⟩ | ⟨_, hb, _, w, _, ⟨_, rfl⟩ | ⟨c, _, rfl⟩⟩ |
    ⟨hr, hb, i, hd, hframe⟩ := step_cases h
  case inl => simp [nmReady_iff, hr]
  case inr.inr.inr =>
    obtain ⟨hp, rfl⟩ | ⟨_, hi, f, b, _, _, rfl⟩ | ⟨_, _, b, hbyte, rfl⟩ | ⟨hp, rfl, hlead, rfl⟩ :=
      hframe
    · simp [nmReady_iff, hp]
    · simp [nmReady_iff, hd, hi]
    · simp [nmReady_iff, Nat.not_le.mpr (lt_four_of_lead hbyte)]
    · simp [nmReady_iff, nameLoop_names, hr, hd, hp, hlead]
  all_goals simp [nmReady_iff, due_of_idle hb]

/-- Settles O30: an idle block accepts or refuses the request on the port, either way consuming it;
a busy block and one under reset are not ready and leave it there. -/
theorem requestTakenByHandshakeOnly : Obligations.RequestTakenByHandshakeOnly := by
  intro s t h
  obtain ⟨hr, rfl⟩ | ⟨_, _, ho, rfl⟩ | ⟨_, _, hq, w, ho, ⟨_, rfl⟩ | ⟨c, _, rfl⟩⟩ |
    ⟨hr, hb, _⟩ := step_cases h
  · simp [State.reqReady, hr]
  · simp [ho]
  · simp [hq, ho]
  · simp [hq, ho]
  · obtain ⟨u, ⟨_, _, _, _, _, _, _, _, _, hreqs, _⟩, rfl⟩ := step_busy_emissionFrame hr hb h
    simp [State.reqReady, hb, hreqs]

/-! ### An agent that does not move (R59, R147, R291) -/

theorem sendByte_of_stalled {s : State} (hstall : s.inp.txReady = false) (b : Byte) (last : Bool)
    (op : Byte) : sendByte b last op s = s := by
  simp [sendByte, hstall]

/-- While the sink does not take the byte on offer, an edge changes the input levels only (R59). -/
theorem step_of_stalled_sink {s : State} {b : Byte} (ho : s.txOffer = some b)
    (hstall : s.inp.txReady = false) : step s = .next s.tick := by
  have hr := not_rst_of_txOffer ho
  obtain ⟨hp, i, hd, ⟨f, hf, hb⟩ | ⟨rfl, hb⟩ | ⟨rfl, hlead, hq⟩⟩ := txOffer_eq_some ho <;>
    rw [step_of_due hr hd]
  · rw [exec_due_byte hr hd hp hf hb, sendByte_of_stalled hstall]
    rfl
  · rw [exec_lead_byte hr hd hp hb, sendByte_of_stalled hstall]
    rfl
  · have hheld : nameLoop s = s := by simp [nameLoop, hq, hstall]
    rw [exec_name_loop hr hd hp hlead, hheld]
    rfl

/-- While the block waits for a name byte and none is offered, an edge changes the input levels only
(R147). -/
theorem step_of_silent_name_source {s : State} (hready : s.nmReady = true)
    (ho : s.nmOffer = none) : step s = .next s.tick := by
  obtain ⟨hr, hd, hp, hlead, hq⟩ := (nmReady_iff s).mp hready
  have hwait : nameLoop s = s := by simp [nameLoop, hq, ho]
  rw [step_of_due hr hd, exec_name_loop hr hd hp hlead, hwait]
  rfl

/-- Block reset apart, the edge's end leaves the byte on offer as it is. -/
theorem tick_txOffer {s : State} (hr : s.inp.rst = false) (hr' : s.tick.inp.rst = false) :
    s.tick.txOffer = s.txOffer := by
  unfold State.txOffer
  rw [hr, hr']
  rfl

/-- Settles O28: a stalled sink's edge changes the input levels only. -/
theorem offeredByteIsHeldUntilAccepted : Obligations.OfferedByteIsHeldUntilAccepted := by
  intro s t b hr hstall ho h hr'
  rw [step_of_stalled_sink ho hstall] at h
  cases h
  rw [tick_txOffer hr hr', ho]

theorem tick_of_sched_nil {s : State} (h : s.sched = []) : s.tick = s := by
  cases s
  cases h
  rfl

/-- Settles O37: each of the three stalls is an edge that changes the input levels only, and with no
levels to come it changes nothing. -/
theorem hangsAreKept : Obligations.HangsAreKept := by
  intro s hr hsched hstall
  have hstep : step s = .next s.tick := by
    obtain ⟨ho, hsink⟩ | ⟨hready, hsource⟩ | ⟨hidle, hhost⟩ := hstall
    · obtain ⟨b, hb⟩ := Option.isSome_iff_exists.mp ho
      exact step_of_stalled_sink hb hsink
    · exact step_of_silent_name_source hready hsource
    · exact step_of_idle hr hidle hhost
  rw [tick_of_sched_nil hsched] at hstep
  exact runSteps_stay hstep

end Sys2Proof.Machine

/-! PROOFS. What reads the pixel memory (R52, R148, R192): only the payload of a group's write frame,
of each pixel only bits 11:0 (R53, R165), and each of its bytes at the address the block drives. -/

namespace Sys2Proof.Machine

/-! ### The pixels in a payload (R165, R191, R194) -/

theorem nibble_toNat (p : Pixel) (c : Channel) :
    (nibble p c).toNat = p.toNat / 2 ^ (4 * Channel.sel c) % 16 := by
  simp [nibble, Nat.shiftRight_eq_div_pow]

theorem nibble_mask (p : Pixel) (c : Channel) : nibble (p &&& 0x0FFF) c = nibble p c := by
  have hmask : (p &&& 0x0FFF).toNat = p.toNat % 4096 := Nat.and_two_pow_sub_one_eq_mod p.toNat 12
  apply BitVec.eq_of_toNat_eq
  rw [nibble_toNat, nibble_toNat, hmask]
  cases c <;> simp only [Channel.sel] <;> omega

/-- Bits 15:12 of a pixel are in no channel's lane (R165). -/
theorem scale_mask (p : Pixel) (c : Channel) : scale (p &&& 0x0FFF) c = scale p c := by
  rw [scale, nibble_mask, scale]

theorem pixByte_congr {m m' : Memory}
    (h : ∀ a, Memory.readPixel m a &&& 0x0FFF = Memory.readPixel m' a &&& 0x0FFF) (n : Nat) :
    pixByte m n = pixByte m' n := by
  rw [pixByte, ← scale_mask, h, scale_mask, pixByte]

theorem writePayload_congr {m m' : Memory}
    (h : ∀ a, Memory.readPixel m a &&& 0x0FFF = Memory.readPixel m' a &&& 0x0FFF)
    (hdr : HdrParams) (fi : Nat) : writePayload hdr m fi = writePayload hdr m' fi := by
  simp only [writePayload, pixByte_congr h]

/-- The write-data frame is due in WRITEBMP only, in the middle of a triple (R190). -/
theorem frameAt_eq_fWriteData {op : BitVec 3} {fi : Nat} :
    frameAt op fi = some .fWriteData ↔ op = 6#3 ∧ fi < 4614 ∧ fi % 3 = 1 := by
  by_cases h6 : op = 6#3
  · subst h6
    have hr : fi % 3 = 0 ∨ fi % 3 = 1 ∨ fi % 3 = 2 := by omega
    rcases hr with hr | hr | hr <;> simp [frameAt_writebmp, hr]
  · rcases op_cases op with rfl | rfl | rfl | rfl | rfl | rfl | rfl | rfl <;> simp_all [frameAt]

/-! ### Exchanging the memory (R148, R165) -/

theorem acceptRequest_of_refused {op : BitVec 3} {c : Cause} {s : State} (hr : s.reqReady = true)
    (ho : outcome op s.st = some c) (arg : Byte) :
    acceptRequest op arg s = .next (s.takeRequest.refuse c) := by
  simp [acceptRequest, hr, ho]

theorem step_of_reset {s : State} (hr : s.inp.rst = true) : step s = .next s.blockReset.tick := by
  simp [step, hr]

theorem step_of_request {s : State} {w : ReqWord} (hr : s.inp.rst = false) (hb : s.busy = false)
    (hw : s.reqOffer = some w) :
    step s = tickOutcome (acceptRequest (reqOp w) (reqArg w) s) := by
  rw [← exec_requestOf]
  exact step_of_fetch hr (by simp [State.fetch, hb, hw, decodeRequest])

theorem withMem_sendByte (m : Memory) (b : Byte) (last : Bool) (op : Byte) (s : State) :
    sendByte b last op (s.withMem m) = (sendByte b last op s).withMem m := by
  unfold sendByte
  rw [withMem_acceptByte, apply_ite (State.withMem m)]
  rfl

theorem withMem_nameLoop (m : Memory) (s : State) :
    nameLoop (s.withMem m) = (nameLoop s).withMem m := by
  have hheld : (s.withMem m).nmQ = s.nmQ := rfl
  unfold nameLoop
  rw [hheld, withMem_nmOffer]
  cases s.nmQ with
  | some b =>
    show (if s.inp.txReady then (s.withMem m).acceptNameByte b else s.withMem m) = _
    rw [withMem_acceptNameByte, ← apply_ite (State.withMem m)]
  | none => cases s.nmOffer <;> rfl

/-- Only the write-data frame reads the pixel memory (R148, R192). -/
theorem frameOf_withMem {i : Instr} {s : State} {m : Memory}
    (h : i = .fWriteData → writePayload s.hdr m s.pos.fi = writePayload s.hdr s.mem s.pos.fi) :
    frameOf i (s.withMem m) = frameOf i s := by
  cases i
  case fWriteData => exact congrArg (fun data => some (writeFrame data)) (h rfl)
  all_goals rfl

/-- Where the write-data frame that is due, if one is, has the same payload over the memory `m`, a
step does the same over it (R148, R192). -/
theorem step_withMem {s t : State} {m : Memory}
    (hpay : s.due = some .fWriteData →
      writePayload s.hdr m s.pos.fi = writePayload s.hdr s.mem s.pos.fi)
    (h : step s = .next t) : step (s.withMem m) = .next (t.withMem m) := by
  obtain ⟨hr, rfl⟩ | ⟨hr, hb, ho, rfl⟩ | ⟨hr, hb, hq, w, hw, ⟨ho, rfl⟩ | ⟨c, ho, rfl⟩⟩ |
    ⟨hr, _, i, hd, hframe⟩ := step_cases h
  case inr.inr.inr =>
    rw [step_of_due (s := s.withMem m) hr hd]
    obtain ⟨hp, rfl⟩ | ⟨hp, _, f, b, hf, hbyte, rfl⟩ | ⟨hp, rfl, b, hbyte, rfl⟩ |
      ⟨hp, rfl, hlead, rfl⟩ := hframe
    · rw [exec_due_settle (s := s.withMem m) hr hd hp]
      rfl
    · have hf' : frameOf i (s.withMem m) = some f :=
        (frameOf_withMem fun hi => hpay (hi ▸ hd)).trans hf
      rw [exec_due_byte (s := s.withMem m) hr hd hp hf' hbyte, withMem_sendByte]
      rfl
    · rw [exec_lead_byte (s := s.withMem m) hr hd hp hbyte, withMem_sendByte]
      rfl
    · rw [exec_name_loop (s := s.withMem m) hr hd hp hlead, withMem_nameLoop]
      rfl
  · exact step_of_reset (s := s.withMem m) hr
  · exact step_of_idle (s := s.withMem m) hr hb ho
  · rw [step_of_request (s := s.withMem m) hr hb hw,
      acceptRequest_of_legal (s := s.withMem m) hq ho]
    rfl
  · rw [step_of_request (s := s.withMem m) hr hb hw,
      acceptRequest_of_refused (s := s.withMem m) hq ho]
    rfl

/-- Settles O54: pixels that agree in bits 11:0 give every write-data frame the same payload. -/
theorem unusedPixelBitsNeverMatter : Obligations.UnusedPixelBitsNeverMatter := by
  intro s t m hpix h
  exact step_withMem (fun _ => writePayload_congr hpix s.hdr s.pos.fi) h

/-- Settles O55: the write-data frame is due in no operation but WRITEBMP. -/
theorem onlyWritebmpReadsThePixels : Obligations.OnlyWritebmpReadsThePixels := by
  intro s t m hs h
  refine step_withMem (fun hd => ?_) h
  obtain ⟨hbusy, hat⟩ := due_eq_some.mp hd
  obtain ⟨hop, _⟩ := frameAt_eq_fWriteData.mp hat
  obtain hidle | hother := hs
  · simp [hidle] at hbusy
  · exact absurd hop hother

/-! ### The address the block drives (R52, R191, R192) -/

theorem frameAt_group {k : Nat} (hk : k < 1536) :
    frameAt 6#3 (3 + 3 * k + 1) = some .fWriteData := by
  have hfi : 3 + 3 * k + 1 = 3 * (k + 1) + 1 := by omega
  rw [hfi, frameAt_write (by omega)]

theorem wphOf_eq_pix {fi : Nat} : wphOf fi = .pix ↔ 3 ≤ fi ∧ fi < 4611 := by
  unfold wphOf Config.nGroups
  split_ifs <;> simp <;> omega

theorem groupOf_group (k : Nat) : groupOf (3 + 3 * k + 1) = k := by
  unfold groupOf
  omega

theorem wphOf_group {k : Nat} (hk : k < 1536) : wphOf (3 + 3 * k + 1) = .pix :=
  wphOf_eq_pix.mpr (by omega)

/-- The payload of group `k`'s write frame is its two stream bytes (R194). -/
theorem writePayload_group (h : HdrParams) (m : Memory) {k : Nat} (hk : k < 1536) :
    writePayload h m (3 + 3 * k + 1) = [pixByte m (2 * k), pixByte m (2 * k + 1)] := by
  simp [writePayload, wphOf_group hk, groupOf_group]

/-- A write-data frame due in the pixel part is the write frame of one of the groups (R190). -/
theorem running_group_of_due {s : State} (hr : s.inp.rst = false)
    (hd : s.due = some .fWriteData) (hpix : wphOf s.pos.fi = .pix) :
    ∃ k, k < 1536 ∧ Running s 6#3 (3 + 3 * k + 1) := by
  obtain ⟨hb, hat⟩ := due_eq_some.mp hd
  obtain ⟨hop, _, hmod⟩ := frameAt_eq_fWriteData.mp hat
  obtain ⟨hlo, hhi⟩ := wphOf_eq_pix.mp hpix
  exact ⟨(s.pos.fi - 4) / 3, by omega, hr, hb, hop, by omega⟩

/-- While group `k`'s write frame is sent, the block offers the byte at `bi` of its image (R194). -/
theorem txOffer_group {s : State} {k : Nat} (hk : k < 1536) (h : Running s 6#3 (3 + 3 * k + 1))
    (hp : s.pos.ph = .send) :
    s.txOffer
      = [0x57, 0xAB, 0x2D, pixByte s.mem (2 * k), pixByte s.mem (2 * k + 1)][s.pos.bi]? := by
  have ⟨hr, _, _, hfi⟩ := h
  rw [txOffer_of_frame hr (h.due (frameAt_group hk)) hp rfl, hfi, writePayload_group _ _ hk]
  rfl

/-- Where a pixel address is driven: at a byte on offer of a write-data frame of the pixel part,
past its three leading bytes (R52, R192). -/
theorem pxAddr_eq_some {s : State} {a : BitVec 10} :
    s.pxAddr = some a ↔ s.due = some .fWriteData ∧ wphOf s.pos.fi = .pix ∧ s.pos.ph = .send ∧
      3 ≤ s.pos.bi ∧ s.txOffer.isSome = true ∧
      (placeOf (2 * groupOf s.pos.fi + (s.pos.bi - 3))).index = a := by
  simp [State.pxAddr, State.txValid, and_assoc]

/-- Settles O56: the two data bytes of a group's write frame are the only bytes on offer past the
leading three of a write-data frame in the pixel part. -/
theorem pixelReadFeedsTheByteOnOffer : Obligations.PixelReadFeedsTheByteOnOffer := by
  refine ⟨fun m n _ => rfl, fun s k i hk hi h hp hbi => ?_, fun s a ha => ?_⟩
  · have ⟨_, _, _, hfi⟩ := h
    have ho : s.txOffer = some (pixByte s.mem (2 * k + i)) := by
      rw [txOffer_group hk h hp, hbi]
      interval_cases i <;> rfl
    have hpix : wphOf s.pos.fi = .pix := hfi ▸ wphOf_group hk
    refine ⟨pxAddr_eq_some.mpr ⟨h.due (frameAt_group hk), hpix, hp, by omega, by rw [ho]; rfl, ?_⟩,
      ho⟩
    rw [hfi, groupOf_group, hbi, Nat.add_sub_cancel_left]
    rfl
  · obtain ⟨hd, hpix, hp, hbi, ho, rfl⟩ := pxAddr_eq_some.mp ha
    obtain ⟨b, hb⟩ := Option.isSome_iff_exists.mp ho
    obtain ⟨k, hk, h⟩ := running_group_of_due (not_rst_of_txOffer hb) hd hpix
    rw [txOffer_group hk h hp] at hb
    have hlt : s.pos.bi < 5 := (List.getElem?_eq_some_iff.mp hb).1
    refine ⟨k, s.pos.bi - 3, hk, by omega, h, hp, by omega, ?_⟩
    have ⟨_, _, _, hfi⟩ := h
    rw [hfi, groupOf_group]
    rfl

end Sys2Proof.Machine

/-! PROOFS. The codings (30_encoding): request words and frame heads there and back (R80, R81, R84,
R86), which request reads its arg (R82), and the close frame with the arg CLOSE latched (R221). -/

namespace Sys2Proof.Machine

/-! ### Request words (R80, R81) -/

theorem reqOp_encodeRequest (op : BitVec 3) (arg : Byte) : reqOp (encodeRequest op arg) = op := by
  have h := arg.isLt
  apply BitVec.eq_of_toNat_eq
  simp only [reqOp, BitVec.extractLsb'_toNat, Laws.encodeRequest_toNat, Nat.shiftRight_eq_div_pow]
  omega

theorem reqArg_encodeRequest (op : BitVec 3) (arg : Byte) :
    reqArg (encodeRequest op arg) = arg := by
  apply BitVec.eq_of_toNat_eq
  simp only [reqArg, BitVec.extractLsb'_toNat, Laws.encodeRequest_toNat, Nat.shiftRight_eq_div_pow]
  omega

/-- The op and the arg are the whole of a request word (R80). -/
theorem encodeRequest_reqOp_reqArg (w : ReqWord) : encodeRequest (reqOp w) (reqArg w) = w := by
  apply BitVec.eq_of_toNat_eq
  simp only [reqOp, reqArg, BitVec.extractLsb'_toNat, Laws.encodeRequest_toNat,
    Nat.shiftRight_eq_div_pow]
  omega

theorem encode_requestOf (op : BitVec 3) (arg : Byte) :
    encode (requestOf op arg) = .word (encodeRequest op arg).toNat := by
  rcases op_cases op with rfl | rfl | rfl | rfl | rfl | rfl | rfl | rfl <;> rfl

/-- Every 11-bit number is decoded as the request word it is (R80, R83). -/
theorem decode_word (w : ReqWord) : decode (.word w.toNat) = .instr (decodeRequest w) [] := by
  simp [decode, wordWf, w.isLt]

/-! ### Frame heads (R84, R86) -/

theorem decode_frameHead {op : Byte} {i : Instr} (h : frameInstr op = some i) :
    decode (.wire (frameHead op)) = .instr i [] := by
  simp [decode, frameHead, decodeHead, h]

/-- An instruction is a request, coded as its word, or a frame row, coded as its three leading bytes
(R81, R86). -/
theorem request_or_frame (i : Instr) :
    (∃ op arg, i = requestOf op arg) ∨
    (∃ op, frameInstr op = some i ∧ encode i = .wire (frameHead op)) := by
  cases i with
  | resvOp0 arg => exact .inl ⟨0, arg, rfl⟩
  | reset arg => exact .inl ⟨1, arg, rfl⟩
  | usbmode arg => exact .inl ⟨2, arg, rfl⟩
  | mount arg => exact .inl ⟨3, arg, rfl⟩
  | create arg => exact .inl ⟨4, arg, rfl⟩
  | name arg => exact .inl ⟨5, arg, rfl⟩
  | writebmp arg => exact .inl ⟨6, arg, rfl⟩
  | close mode => exact .inl ⟨7, mode, rfl⟩
  | fReset => exact .inr ⟨0x05, rfl, rfl⟩
  | fSetMode => exact .inr ⟨0x15, rfl, rfl⟩
  | fMount => exact .inr ⟨0x31, rfl, rfl⟩
  | fCreate => exact .inr ⟨0x34, rfl, rfl⟩
  | fSetFilename => exact .inr ⟨0x2F, rfl, rfl⟩
  | fDeclareLen => exact .inr ⟨0x3C, rfl, rfl⟩
  | fWriteData => exact .inr ⟨0x2D, rfl, rfl⟩
  | fUpdatePtr => exact .inr ⟨0x3D, rfl, rfl⟩
  | fClose => exact .inr ⟨0x36, rfl, rfl⟩

theorem decode_encode (i : Instr) : decode (encode i) = .instr i [] := by
  obtain ⟨op, arg, rfl⟩ | ⟨op, hop, henc⟩ := request_or_frame i
  · rw [encode_requestOf, decode_word, decodeRequest, reqOp_encodeRequest, reqArg_encodeRequest]
  · rw [henc, decode_frameHead hop]

/-- Settles O2: a request word is its op and its arg, and a frame row its opcode. -/
theorem requestAndFrameCodingsRoundTrip : Obligations.RequestAndFrameCodingsRoundTrip := by
  refine ⟨fun i _ => decode_encode i, fun w => ?_⟩
  rw [decodeRequest, encode_requestOf, encodeRequest_reqOp_reqArg]

/-- Settles O1: four of the words are codings of their rows; the decoder computes the other four. -/
theorem specWordsDecodeAsListed : Obligations.SpecWordsDecodeAsListed :=
  ⟨decode_encode (.close 0xA5), decode_encode (.usbmode 0xFF), decode_encode (.resvOp0 0x00), rfl,
    rfl, decode_encode .fUpdatePtr, rfl, rfl⟩

/-! ### The arg of a request (R82) -/

theorem acceptLegal_arg_irrel {op : BitVec 3} (hop : op ≠ 7#3) (a b : Byte) (s : State) :
    s.acceptLegal op a = s.acceptLegal op b := by
  simp [State.acceptLegal, hop]

/-- Settles O12: an acceptance reads the arg for the mode byte that CLOSE latches only. -/
theorem argOnlyMattersToClose : Obligations.ArgOnlyMattersToClose := by
  intro op a b s hop
  rw [exec_requestOf, exec_requestOf]
  simp only [acceptRequest, acceptLegal_arg_irrel hop a b]

/-! ### The close frame (R221) -/

/-- Settles O15: CLOSE has its one frame, with the latched mode byte, at index 0. -/
theorem closeFrameSendsLatchedMode : Obligations.CloseFrameSendsLatchedMode := by
  intro s h
  exact ⟨h.sends (f := closeFrame s.modeQ) rfl rfl, h.exec_last_settle rfl rfl⟩

end Sys2Proof.Machine

/-! PROOFS. Frames in a row (R85, R89, R201): lists of frames the block can emit, put together and
cut short; the programs of a session as such lists; and an observer's splitting of their bytes. -/

namespace Sys2Proof.Machine

/-! ### Lists of frames the block can emit (R87, R201) -/

/-- The head of such a list, and the rest of it behind the length the head declares (R201). -/
theorem framesWf_cons {declared : Nat} {f : Frame} {fs : List Frame} :
    framesWf declared (f :: fs) = true ↔
      f.wf = true ∧ (f.op = 0x2D → f.params.length = declared) ∧ framesWf f.declares fs = true := by
  simp [framesWf, and_assoc, imp_iff_not_or]

theorem framesWf_append {fs gs : List Frame} (hgs : ∀ declared, framesWf declared gs = true) :
    ∀ {declared}, framesWf declared fs = true → framesWf declared (fs ++ gs) = true := by
  induction fs with
  | nil => exact fun _ => hgs _
  | cons f fs ih =>
    intro declared h
    obtain ⟨hf, hlen, hfs⟩ := framesWf_cons.mp h
    exact framesWf_cons.mpr ⟨hf, hlen, ih hfs⟩

theorem framesWf_flatMap {α : Type} {g : α → List Frame} {xs : List α}
    (hg : ∀ x ∈ xs, ∀ declared, framesWf declared (g x) = true) (declared : Nat) :
    framesWf declared (xs.flatMap g) = true := by
  induction xs generalizing declared with
  | nil => rfl
  | cons x xs ih =>
    obtain ⟨hx, hxs⟩ := List.forall_mem_cons.mp hg
    rw [List.flatMap_cons]
    exact framesWf_append (ih hxs) (hx declared)

theorem framesWf_take {fs : List Frame} (n : Nat) :
    ∀ {declared}, framesWf declared fs = true → framesWf declared (fs.take n) = true := by
  induction fs generalizing n with
  | nil => simp [framesWf]
  | cons f fs ih =>
    intro declared h
    obtain ⟨hf, hlen, hfs⟩ := framesWf_cons.mp h
    cases n with
    | zero => rfl
    | succ n => exact framesWf_cons.mpr ⟨hf, hlen, ih n hfs⟩

theorem Frame.wf_of_mem {f : Frame} {fs : List Frame} (hf : f ∈ fs) :
    ∀ {declared}, framesWf declared fs = true → f.wf = true := by
  induction fs with
  | nil => cases hf
  | cons g fs ih =>
    intro declared h
    obtain ⟨hg, _, hfs⟩ := framesWf_cons.mp h
    obtain rfl | hf := List.mem_cons.mp hf
    · exact hg
    · exact ih hf hfs

/-! ### The triples of the write program (R181, R190, R201) -/

/-- The declare and the write frame of a triple are in the same part of the write program (R32). -/
theorem wphOf_triple (j : Nat) : wphOf (3 * j + 1) = wphOf (3 * j) := by
  have hhdr : 3 * j + 1 < 3 ↔ 3 * j < 3 := by omega
  have hpix : 3 * j + 1 < 3 + 3 * Config.nGroups ↔ 3 * j < 3 + 3 * Config.nGroups := by omega
  simp only [wphOf, hhdr, hpix]

/-- The write frame of a triple carries as many bytes as its declare frame declares (R201). -/
theorem writePayload_length (h : HdrParams) (m : Memory) (j : Nat) :
    (writePayload h m (3 * j + 1)).length = (declaredLen (3 * j)).toNat := by
  unfold writePayload declaredLen
  rw [wphOf_triple]
  cases wphOf (3 * j) <;> rfl

theorem framesWf_writeChunk {n : BitVec 16} {data : List Byte} (hn : n = 54 ∨ n = 2)
    (hdata : data.length = n.toNat) (declared : Nat) :
    framesWf declared (writeChunk n data) = true := by
  obtain rfl | rfl := hn <;>
    simp [framesWf, writeChunk, declareFrame, writeFrame, updateFrame, Frame.wf, Frame.declares,
      lo8, hi8, hdata]

theorem framesWf_writeTriple (h : HdrParams) (m : Memory) (j declared : Nat) :
    framesWf declared (writeTriple h m j) = true := by
  refine framesWf_writeChunk ?_ (writePayload_length h m j) declared
  rw [declaredLen_triple]
  split
  · exact .inl rfl
  · exact .inr rfl

theorem framesWf_writeProgram (h : HdrParams) (m : Memory) (declared : Nat) :
    framesWf declared (writeProgram h m) = true := by
  rw [writeProgram_eq_triples]
  exact framesWf_flatMap (fun j _ => framesWf_writeTriple h m j) declared

/-- Settles O53: the chunks are the length declared and the payload written in each triple. -/
theorem writeProgramIsTriplesOfDeclaredLength :
    Obligations.WriteProgramIsTriplesOfDeclaredLength := by
  intro h m
  refine ⟨⟨(List.range 1538).map fun j => (declaredLen (3 * j), writePayload h m (3 * j + 1)),
    ?_, fun c hc => ?_⟩, framesWf_writeProgram h m 0⟩
  · rw [writeProgram_eq_triples, List.flatMap_map]
    rfl
  · obtain ⟨j, _, rfl⟩ := List.mem_map.mp hc
    exact writePayload_length h m j

/-! ### The programs of a session (R30, R87, R130) -/

/-- A set-filename frame's parameters are the marker, a name, the terminator (R87). -/
theorem filenameParamsWf_iff {params : List Byte} :
    filenameParamsWf params = true ↔
      ∃ name, nameWf name = true ∧ params = 0x2F :: (name ++ [0]) := by
  constructor
  · intro h
    cases params with
    | nil => cases h
    | cons m rest =>
      simp only [filenameParamsWf, Bool.and_eq_true, beq_iff_eq] at h
      obtain ⟨⟨rfl, hlast⟩, hname⟩ := h
      exact ⟨rest.dropLast, hname, by rw [List.dropLast_append_getLast? 0 hlast]⟩
  · rintro ⟨name, hname, rfl⟩
    simpa [filenameParamsWf] using hname

theorem framesWf_opProgram (h : HdrParams) (m : Memory) {name : List Byte}
    (hname : nameWf name = true) (mode : Byte) (op declared : Nat) :
    framesWf declared (opProgram h m name mode op) = true := by
  unfold opProgram
  split
  case h_5 =>
    have hparams : filenameParamsWf (filenameFrame name).params = true :=
      filenameParamsWf_iff.mpr ⟨name, hname, rfl⟩
    exact framesWf_cons.mpr ⟨hparams, (fun hop => nomatch hop), rfl⟩
  case h_6 => exact framesWf_writeProgram h m declared
  all_goals rfl

/-- The frames of the first `k` operations of a session (R130). -/
def sessionFrames (h : HdrParams) (m : Memory) (name : List Byte) (mode : Byte) (k : Nat) :
    List Frame :=
  (List.range k).flatMap (fun j => opProgram h m name mode (j + 1))

theorem framesBytes_append (fs gs : List Frame) :
    framesBytes (fs ++ gs) = framesBytes fs ++ framesBytes gs :=
  List.flatMap_append

theorem framesBytes_sessionFrames (h : HdrParams) (m : Memory) (name : List Byte) (mode : Byte)
    (k : Nat) : framesBytes (sessionFrames h m name mode k) = sessionBytes h m name mode k :=
  List.flatMap_assoc

theorem framesWf_sessionFrames (h : HdrParams) (m : Memory) {name : List Byte}
    (hname : nameWf name = true) (mode : Byte) (k declared : Nat) :
    framesWf declared (sessionFrames h m name mode k) = true :=
  framesWf_flatMap (fun j _ => framesWf_opProgram h m hname mode (j + 1)) declared

/-- Settles O43: an idle block has sent whole operations; a busy one those, the frames before
`pos.fi` of its program, and the first `pos.bi` bytes of the frame there. -/
theorem traceIsWholeFramesAndOnePart : Obligations.TraceIsWholeFramesAndOnePart := by
  rintro s ⟨_, name, hname, hs⟩
  cases hb : s.busy with
  | false =>
    refine ⟨sessionFrames s.hdr s.mem name s.modeQ (Session.code s.st).toNat, [], ?_,
      framesWf_sessionFrames _ _ hname _ _ 0, .inl rfl⟩
    rw [framesBytes_sessionFrames, List.append_nil]
    exact (traceIsSession_of_idle hb).mp hs
  | true =>
    obtain ⟨htrace, f, hf, _⟩ := (traceIsSession_of_busy hb).mp hs
    have hprogram : ∀ declared, framesWf declared (s.program name) = true :=
      framesWf_opProgram _ _ hname _ _
    refine ⟨sessionFrames s.hdr s.mem name s.modeQ (s.curOp.toNat - 1)
        ++ (s.program name).take s.pos.fi, f.bytes.take s.pos.bi, ?_,
      framesWf_append (fun declared => framesWf_take _ (hprogram declared))
        (framesWf_sessionFrames _ _ hname _ _ 0),
      .inr ⟨f, Frame.wf_of_mem (List.mem_of_getElem? hf) (hprogram 0), List.take_prefix _ _⟩⟩
    rw [htrace, partBytes_of_getElem? hf, framesBytes_append, framesBytes_sessionFrames,
      List.append_assoc]
    rfl

/-! ### The observer (R84, R85) -/

theorem takeExactly_append {n : Nat} {xs : List Byte} (h : xs.length = n) (ys : List Byte) :
    takeExactly n (xs ++ ys) = some (xs, ys) := by
  subst h
  simp [takeExactly]

/-- The first 0x00 after a name is its terminator (R85, R145). -/
theorem takeThroughZero_name {name : List Byte} (h : nameWf name = true) (rest : List Byte) :
    takeThroughZero (name ++ 0 :: rest) = some (name ++ [0], rest) := by
  induction name with
  | nil => rfl
  | cons b name ih =>
    obtain ⟨hb, hname⟩ : b ≠ 0 ∧ nameWf name = true := by simpa [nameWf] using h
    rw [List.cons_append, takeThroughZero, if_neg hb, ih hname]
    rfl

/-- R85's length rules find the parameters of every frame the block can emit, a write-data payload
by the length declared before it. -/
theorem splitParams_of_wf {f : Frame} {declared : Nat} (hwf : f.wf = true)
    (hlen : f.op = 0x2D → f.params.length = declared) (rest : List Byte) :
    splitParams declared f.op (f.params ++ rest) = some (f.params, rest) := by
  unfold Frame.wf at hwf
  split at hwf
  case h_1 h | h_3 h | h_4 h | h_8 h =>
    have hnone : f.params = [] := by simpa using hwf
    simp [splitParams, h, hnone]
  case h_2 h | h_9 h =>
    have hone : f.params.length = 1 := by simp_all
    simp [splitParams, h, takeExactly_append hone]
  case h_5 h =>
    obtain ⟨name, hname, hparams⟩ := filenameParamsWf_iff.mp hwf
    have hzero := takeThroughZero_name hname rest
    simpa [splitParams, h, hparams] using hzero
  case h_6 h =>
    have htwo : f.params.length = 2 := by
      obtain hp | hp : f.params = [54, 0] ∨ f.params = [2, 0] := by simpa using hwf
      all_goals rw [hp]; rfl
    simp [splitParams, h, takeExactly_append htwo]
  case h_7 h =>
    simp [splitParams, h, takeExactly_append (hlen (BitVec.eq_of_toNat_eq h))]
  case h_10 => cases hwf

theorem splitFrame_of_wf {f : Frame} {declared : Nat} (hwf : f.wf = true)
    (hlen : f.op = 0x2D → f.params.length = declared) (rest : List Byte) :
    splitFrame declared (f.bytes ++ rest) = some (f, rest) := by
  simp [Frame.bytes, frameHead, splitFrame, splitParams_of_wf hwf hlen]

theorem splitFrames_nil (fuel declared : Nat) : splitFrames fuel declared [] = ([], []) := by
  cases fuel <;> rfl

/-- With fuel for each frame, the observer finds every frame of a list the block can emit. -/
theorem splitFrames_framesBytes {fs : List Frame} :
    ∀ {fuel declared : Nat}, fs.length ≤ fuel → framesWf declared fs = true →
      splitFrames fuel declared (framesBytes fs) = (fs, []) := by
  induction fs with
  | nil => exact fun _ _ => splitFrames_nil _ _
  | cons f fs ih =>
    intro fuel declared hfuel h
    obtain ⟨hwf, hlen, hfs⟩ := framesWf_cons.mp h
    cases fuel with
    | zero => cases hfuel
    | succ fuel =>
      have hrest := ih (Nat.le_of_succ_le_succ hfuel) hfs
      show splitFrames (fuel + 1) declared (f.bytes ++ framesBytes fs) = _
      simp [splitFrames, splitFrame_of_wf hwf hlen, hrest]

/-- Every frame has bytes, so a trace is fuel enough for its own frames. -/
theorem length_le_framesBytes (fs : List Frame) : fs.length ≤ (framesBytes fs).length := by
  induction fs with
  | nil => exact Nat.le_refl 0
  | cons f fs ih =>
    show fs.length + 1 ≤ (f.bytes ++ framesBytes fs).length
    rw [List.length_append, Frame.bytes_length]
    omega

/-- Settles O3, by induction on the frames: the observer splits off the first by R85's rules, and
with it learns the length the next one has. -/
theorem observerRecoversEveryFrame : Obligations.ObserverRecoversEveryFrame := by
  intro fs h
  exact splitFrames_framesBytes (length_le_framesBytes fs) h

end Sys2Proof.Machine

/-! PROOFS. The Command Primitive as a whole (R110, R113, R116): a settle wait drives no handshake,
and under a willing environment a frame with a fixed image runs from its first byte to its settle wait's
end. -/

namespace Sys2Proof.Machine

open Sys2Proof.Claims

/-- Settles O31: each of the three outputs needs `ph = SEND` or `busy = 0`. -/
theorem settleWaitIsSilent : Obligations.SettleWaitIsSilent := by
  intro s hb hp
  have htx : s.txValid = false := by simp [State.txValid, txOffer_of_settle hp]
  have hnm : s.nmReady = false := by simp [State.nmReady, hp]
  have hreq : s.reqReady = false := by simp [State.reqReady, hb]
  exact ⟨htx, hnm, hreq⟩

/-! ### One transaction under a willing environment (R58, R113) -/

theorem rst_of_willing {s : State} (h : Willing s) : s.inp.rst = false := by
  rw [h.1]
  rfl

theorem txReady_of_willing {s : State} (h : Willing s) : s.inp.txReady = true := by
  rw [h.1]
  rfl

/-- With no input levels to come, a step of a busy block is its frame's transaction alone. -/
theorem step_of_willing_exec {s t : State} (hw : Willing s) {i : Instr} (hd : s.due = some i)
    (he : exec i s = .next t) (ht : t.sched = s.sched) : step s = .next t := by
  rw [step_of_due (rst_of_willing hw) hd, he]
  exact congrArg _ (tick_of_sched_nil (ht.trans hw.2))

theorem step_of_willing_byte {s : State} (hw : Willing s) {i : Instr} {f : Frame} {b : Byte}
    (hd : s.due = some i) (hp : s.pos.ph = .send) (hf : frameOf i s = some f)
    (hb : f.bytes[s.pos.bi]? = some b) :
    step s = .next (afterByte s b f.bytes.length (settleMs f.op)) := by
  refine step_of_willing_exec hw hd ?_ rfl
  rw [exec_due_byte (rst_of_willing hw) hd hp hf hb, sendByte_eq_afterByte,
    if_pos (txReady_of_willing hw)]

theorem step_of_willing_settle {s : State} (hw : Willing s) {i : Instr} (hd : s.due = some i)
    (hp : s.pos.ph = .settle) : step s = .next s.expireSettle :=
  step_of_willing_exec hw hd (exec_due_settle (rst_of_willing hw) hd hp) rfl

/-! ### A whole frame (R110) -/

/-- The state once the sink has accepted the bytes of `f` from `pos.bi` on: the settle wait is due
(R29, R31). -/
def State.restSent (f : Frame) (s : State) : State :=
  { s with
    trace := s.trace ++ f.bytes.drop s.pos.bi
    pos := ⟨s.pos.fi, f.bytes.length, .settle⟩
    settleCnt := settleCycles f.op }

/-- A frame's image does not depend on how much of it is sent (R87). -/
theorem frameOf_afterByte (i : Instr) (s : State) (b : Byte) (len ms : Nat) :
    frameOf i (afterByte s b len ms) = frameOf i s := by
  cases i <;> rfl

theorem afterByte_ph_of_not_last {s : State} {len : Nat} (h : s.pos.bi + 1 ≠ len) (b : Byte)
    (ms : Nat) : (afterByte s b len ms).pos.ph = .send :=
  if_neg h

/-- The last byte of a frame leaves nothing of it to send. -/
theorem afterByte_last {s : State} {f : Frame} {b : Byte} (hb : f.bytes[s.pos.bi]? = some b)
    (hlast : s.pos.bi + 1 = f.bytes.length) :
    afterByte s b f.bytes.length (settleMs f.op) = s.restSent f := by
  obtain ⟨hlt, rfl⟩ := List.getElem?_eq_some_iff.mp hb
  simp [afterByte, State.restSent, settleCycles, hlast, List.drop_eq_getElem_cons hlt]

/-- A byte, and then the rest after it, are the rest from that byte on. -/
theorem restSent_afterByte {s : State} {f : Frame} {b : Byte} (hb : f.bytes[s.pos.bi]? = some b)
    (len ms : Nat) : (afterByte s b len ms).restSent f = s.restSent f := by
  obtain ⟨hlt, rfl⟩ := List.getElem?_eq_some_iff.mp hb
  simp [afterByte, State.restSent]

/-- Under a willing environment the `n + 1` bytes a frame has left go out in as many steps (R58,
R110). -/
theorem runSteps_restSent {i : Instr} {f : Frame} (n : Nat) :
    ∀ {s : State}, Willing s → s.due = some i → s.pos.ph = .send → frameOf i s = some f →
      s.pos.bi + (n + 1) = f.bytes.length → runSteps (n + 1) s = .next (s.restSent f) := by
  induction n with
  | zero =>
    intro s hw hd hp hf hlast
    have hb := List.getElem?_eq_getElem (l := f.bytes) (i := s.pos.bi) (by omega)
    rw [runSteps_succ 0 (step_of_willing_byte hw hd hp hf hb), afterByte_last hb hlast]
    rfl
  | succ n ih =>
    intro s hw hd hp hf hlen
    have hb := List.getElem?_eq_getElem (l := f.bytes) (i := s.pos.bi) (by omega)
    rw [runSteps_succ (n + 1) (step_of_willing_byte hw hd hp hf hb), ← restSent_afterByte hb]
    have hnext : s.pos.bi + 1 + (n + 1) = f.bytes.length := by omega
    exact ih hw hd (afterByte_ph_of_not_last (by omega) _ _)
      ((frameOf_afterByte i s _ _ _).trans hf) hnext

/-- A whole frame from its first byte: a step per byte, and one for the settle wait (R110, R113). -/
theorem runSteps_wholeFrame {i : Instr} {f : Frame} {s : State} (hw : Willing s)
    (hd : s.due = some i) (hbi : s.pos.bi = 0) (hp : s.pos.ph = .send) (hf : frameOf i s = some f) :
    runSteps (f.bytes.length + 1) s = .next (s.restSent f).expireSettle := by
  have hlen := Frame.bytes_length f
  have hsent : runSteps f.bytes.length s = .next (s.restSent f) := by
    rw [hlen]
    exact runSteps_restSent (f.params.length + 2) hw hd hp hf (by omega)
  have hw' : Willing (s.restSent f) := hw
  rw [runSteps_add 1 hsent, runSteps_succ 0 (step_of_willing_settle hw' hd rfl)]
  rfl

/-- The last frame of an operation runs to the operation's end (R29, R110). -/
theorem Running.runSteps_lastFrame {s : State} {op : BitVec 3} {fi : Nat} (h : Running s op fi)
    (hw : Willing s) (hbi : s.pos.bi = 0) (hp : s.pos.ph = .send) {i : Instr} {f : Frame}
    (hi : frameAt op fi = some i) (hnext : frameAt op (fi + 1) = none) (hf : frameOf i s = some f) :
    runSteps (f.bytes.length + 1) s
      = .next (ended s fi f.bytes.length f.bytes (settleMs f.op)) := by
  rw [runSteps_wholeFrame hw (h.due hi) hbi hp hf]
  obtain ⟨_, _, rfl, rfl⟩ := h
  rw [expireSettle_last (s := s.restSent f) hnext]
  simp [afterLastSettle, State.restSent, ended, settleCycles, hbi]

/-- Settles O57: each of the five operations has its one frame, with a fixed image, at index 0. -/
theorem oneFrameOperationsRunToTheirEnd : Obligations.OneFrameOperationsRunToTheirEnd := by
  intro s hw hbi hp
  exact ⟨fun h => h.runSteps_lastFrame (f := resetFrame) hw hbi hp rfl rfl rfl,
    fun h => h.runSteps_lastFrame (f := setModeFrame) hw hbi hp rfl rfl rfl,
    fun h => h.runSteps_lastFrame (f := mountFrame) hw hbi hp rfl rfl rfl,
    fun h => h.runSteps_lastFrame (f := createFrame) hw hbi hp rfl rfl rfl,
    fun h => h.runSteps_lastFrame (f := closeFrame s.modeQ) hw hbi hp rfl rfl rfl⟩

end Sys2Proof.Machine

/-! PROOFS. The session sequencer (R130 to R132, R145): a request begins its operation where it is
legal and is refused elsewhere (R231), and NAME, once begun, runs through the whole name. -/

namespace Sys2Proof.Machine

open Sys2Proof.Claims

/-! ### The set-filename frame under a willing environment (R61, R145) -/

section
variable {s : State} (hw : Willing s) (hd : s.due = some .fSetFilename) (hp : s.pos.ph = .send)
include hw hd hp

theorem step_of_willing_lead {b : Byte} (hb : nameLead[s.pos.bi]? = some b) :
    step s = .next (s.acceptByte b false 0x2F#8) := by
  refine step_of_willing_exec hw hd ?_ rfl
  rw [exec_lead_byte (rst_of_willing hw) hd hp hb, sendByte, if_pos (txReady_of_willing hw)]

theorem step_of_willing_name_source (hlead : 4 ≤ s.pos.bi) (hq : s.nmQ = none) {b : Byte}
    {rest : List Byte} (hn : s.names = b :: rest) : step s = .next (s.takeName b) := by
  have hoffer : s.nmOffer = some b := by simp [State.nmOffer, hw.1, willing, hn]
  refine step_of_willing_exec hw hd ?_ rfl
  rw [exec_name_loop (rst_of_willing hw) hd hp hlead, nameLoop, hq, hoffer]

theorem step_of_willing_held_byte (hlead : 4 ≤ s.pos.bi) {b : Byte} (hq : s.nmQ = some b) :
    step s = .next (s.acceptNameByte b) := by
  refine step_of_willing_exec hw hd ?_ rfl
  rw [exec_name_loop (rst_of_willing hw) hd hp hlead, nameLoop, hq]
  exact congrArg _ (if_pos (txReady_of_willing hw))

/-- A name byte goes from the source to the sink in two steps (log 6). -/
theorem runSteps_name_byte (hlead : 4 ≤ s.pos.bi) (hq : s.nmQ = none) {b : Byte}
    {rest : List Byte} (hn : s.names = b :: rest) (k : Nat) :
    runSteps (k + 2) s = runSteps k ((s.takeName b).acceptNameByte b) := by
  have htaken : Willing (s.takeName b) := hw
  rw [runSteps_succ (k + 1) (step_of_willing_name_source hw hd hp hlead hq hn),
    runSteps_succ k (step_of_willing_held_byte htaken hd hp hlead rfl)]

end

/-- The state once the sink has accepted `lead`, all there is of the lead from `pos.bi` on (R145). -/
def State.leadSent (lead : List Byte) (s : State) : State :=
  { s with
    trace := s.trace ++ lead
    pos := ⟨s.pos.fi, s.pos.bi + lead.length, .send⟩ }

/-- The state once the sink has accepted `name` and its terminator, and the name source holds `rest`:
the settle wait is due (R31, R145). -/
def State.nameSent (name rest : List Byte) (s : State) : State :=
  { s with
    trace := s.trace ++ (name ++ [0])
    pos := ⟨s.pos.fi, s.pos.bi + (name.length + 1), .settle⟩
    settleCnt := settleCycles 0x2F#8
    names := rest }

/-- What is left of the lead goes out in as many steps (R145). -/
theorem runSteps_lead (lead : List Byte) :
    ∀ {s : State}, Willing s → s.due = some .fSetFilename → s.pos.ph = .send →
      nameLead.drop s.pos.bi = lead → runSteps lead.length s = .next (s.leadSent lead) := by
  induction lead with
  | nil =>
    intro s _ _ hp _
    simp [runSteps, State.leadSent, ← hp]
  | cons b lead ih =>
    intro s hw hd hp hlead
    have hb : nameLead[s.pos.bi]? = some b := by
      rw [← List.head?_drop, hlead, List.head?_cons]
    have hrest : nameLead.drop (s.pos.bi + 1) = lead := by
      rw [← List.tail_drop, hlead, List.tail_cons]
    have hsent : Willing (s.acceptByte b false 0x2F#8) := hw
    rw [List.length_cons, runSteps_succ lead.length (step_of_willing_lead hw hd hp hb),
      ih hsent hd rfl hrest]
    simp [State.leadSent, State.acceptByte, Nat.add_assoc, Nat.add_comm lead.length]

/-- A name without a 00 inside and its terminator go out in two steps a byte (R145, R146). -/
theorem runSteps_name {rest : List Byte} (name : List Byte) :
    ∀ {s : State}, Willing s → s.due = some .fSetFilename → s.pos.ph = .send → 4 ≤ s.pos.bi →
      s.nmQ = none → nameWf name = true → s.names = name ++ 0 :: rest →
      runSteps (2 * (name.length + 1)) s = .next (s.nameSent name rest) := by
  induction name with
  | nil =>
    intro s hw hd hp hlead hq _ hn
    rw [List.nil_append] at hn
    refine (runSteps_name_byte hw hd hp hlead hq hn 0).trans ?_
    simp [runSteps, State.nameSent, State.acceptNameByte, State.acceptByte, State.takeName, hn, hq]
  | cons b name ih =>
    intro s hw hd hp hlead hq hwf hn
    obtain ⟨hb, hname⟩ : b ≠ 0 ∧ nameWf name = true := by simpa [nameWf] using hwf
    have hph : ((s.takeName b).acceptNameByte b).pos.ph = .send := by simpa using hb
    have hnames : ((s.takeName b).acceptNameByte b).names = name ++ 0 :: rest := by simp [hn]
    have hsent : Willing ((s.takeName b).acceptNameByte b) := hw
    have hrest := ih hsent hd hph (Nat.le_succ_of_le hlead) rfl hname hnames
    refine (runSteps_name_byte hw hd hp hlead hq hn _).trans (hrest.trans ?_)
    simp [State.nameSent, State.acceptNameByte, State.acceptByte, State.takeName, hq,
      Nat.add_assoc, Nat.add_comm name.length]

/-- Settles O58: the lead, then by induction the name and its terminator, then the settle wait. -/
theorem nameRunsToItsTerminator : Obligations.NameRunsToItsTerminator := by
  intro s name rest hw h hbi hp hq hwf hn
  have hd := h.due (i := .fSetFilename) rfl
  have hlead : runSteps 4 s = .next (s.leadSent nameLead) :=
    runSteps_lead nameLead hw hd hp (by rw [hbi, List.drop_zero])
  have hwLead : Willing (s.leadSent nameLead) := hw
  have hname := runSteps_name name hwLead hd rfl (Nat.le_add_left 4 _) hq hwf hn
  have hwSent : Willing ((s.leadSent nameLead).nameSent name rest) := hw
  obtain ⟨_, _, hop, hfi⟩ := h
  have hlast : frameAt s.curOp (s.pos.fi + 1) = none := by rw [hop, hfi]; rfl
  rw [Nat.add_assoc, runSteps_add _ hlead, runSteps_add 1 hname,
    runSteps_succ 0 (step_of_willing_settle hwSent hd rfl),
    expireSettle_last (s := (s.leadSent nameLead).nameSent name rest) hlast]
  simp [runSteps, afterLastSettle, State.nameSent, State.leadSent, ended, nameLead, settleCycles,
    settleMs, hbi, hfi]
  omega

/-! ### The outcome of a request (R130, R131, R231) -/

/-- A legal request but CLOSE begins its operation and latches no mode byte (R131, R220). -/
theorem acceptRequest_begins {op : BitVec 3} {s : State} (hready : Ready s)
    (hlegal : outcome op s.st = none) (hop : op ≠ 7#3) (arg : Byte) :
    acceptRequest op arg s = .next (begun s (sessionOf op) op) := by
  rw [acceptRequest_of_legal ((ready_iff_reqReady s).mp hready) hlegal]
  simp [State.acceptLegal, State.takeRequest, begun, hop]

/-- The cause of a request that is not legal (R232, R234). -/
theorem outcome_of_illegal {op : BitVec 3} {st : Session}
    (h : ¬(op ≠ 0#3 ∧ Session.code st = op - 1#3)) :
    outcome op st
      = some (if op = 0#3 then .illegalOp else if st = .closed then .afterClose else .outOfOrder) := by
  by_cases hop : op = 0#3
  · simp [outcome, hop]
  · have hcode : Session.code st ≠ op - 1#3 := fun hcode => h ⟨hop, hcode⟩
    by_cases hst : st = .closed <;> simp [outcome, hop, hst, hcode]

/-- Settles O9: the refusal with the illegal request's cause is all that happens. -/
theorem illegalRequestIsRefusedAndNothingElse :
    Obligations.IllegalRequestIsRefusedAndNothingElse := by
  intro op arg s hready hillegal
  rw [exec_requestOf, acceptRequest_of_refused ((ready_iff_reqReady s).mp hready)
    (outcome_of_illegal hillegal)]
  rfl

/-- Settles O6: each of the five requests is legal in the state one below its op. -/
theorem sessionRequestsBeginWhereLegal : Obligations.SessionRequestsBeginWhereLegal := by
  intro arg s hready
  have hbegins (op : BitVec 3) (hop : op ≠ 7#3) {st : Session} (hlegal : outcome op st = none)
      (hst : s.st = st) : acceptRequest op arg s = .next (begun s (sessionOf op) op) :=
    acceptRequest_begins hready (hst ▸ hlegal) hop arg
  exact ⟨hbegins 1#3 (by decide) rfl, hbegins 2#3 (by decide) rfl, hbegins 3#3 (by decide) rfl,
    hbegins 4#3 (by decide) rfl, hbegins 5#3 (by decide) rfl⟩

/-- Settles O7: WRITEBMP is the one legal request in `FileNamed`. -/
theorem writebmpBeginsInFileNamed : Obligations.WritebmpBeginsInFileNamed := by
  intro arg s hready hst
  have hlegal : outcome 6#3 s.st = none := by rw [hst]; rfl
  exact acceptRequest_begins hready hlegal (by decide) arg

end Sys2Proof.Machine

/-! PROOFS. The channel scaler (42 R160 to R168): its byte is 17 times the selected nibble, so the nibble
written twice; hence it depends on its own lane alone and gives the nibble back from either half. -/

namespace Sys2Proof.Machine

/-- `nib * 17` is exact in eight bits, since a nibble is at most 15 (R163). -/
theorem scale_toNat (p : Pixel) (c : Channel) : (scale p c).toNat = 17 * (nibble p c).toNat := by
  have hlt := (nibble p c).isLt
  simp only [scale, BitVec.toNat_mul, BitVec.toNat_setWidth, BitVec.reduceToNat]
  omega

theorem scale_eq_append (p : Pixel) (c : Channel) : scale p c = nibble p c ++ nibble p c := by
  apply BitVec.eq_of_toNat_eq
  calc (scale p c).toNat
      = 2 ^ 4 * (nibble p c).toNat + (nibble p c).toNat := by rw [scale_toNat]; omega
    _ = (nibble p c ++ nibble p c).toNat := by
        rw [BitVec.toNat_append, ← Nat.shiftLeft_add_eq_or_of_lt (nibble p c).isLt, Nat.shiftLeft_eq,
          Nat.mul_comm]

/-- The low half of the byte is the nibble (R166). -/
theorem scale_lowHalf (p : Pixel) (c : Channel) : (scale p c).setWidth 4 = nibble p c := by
  rw [scale_eq_append, BitVec.setWidth_append_eq_right]

/-- The high half of the byte is the nibble (R166). -/
theorem scale_highHalf (p : Pixel) (c : Channel) : (scale p c >>> 4).setWidth 4 = nibble p c := by
  have hlt := (nibble p c).isLt
  have hdiv : 17 * (nibble p c).toNat / 2 ^ 4 = (nibble p c).toNat := by omega
  apply BitVec.eq_of_toNat_eq
  rw [BitVec.toNat_setWidth, BitVec.toNat_ushiftRight, scale_toNat, Nat.shiftRight_eq_div_pow,
    hdiv, Nat.mod_eq_of_lt hlt]

theorem scale_eq_scale_iff {p q : Pixel} {c : Channel} :
    scale p c = scale q c ↔ nibble p c = nibble q c := by
  constructor
  · intro h
    rw [← scale_lowHalf p, h, scale_lowHalf]
  · intro h
    rw [scale, h, scale]

theorem extract_eq_none {row col : Nat} (h : 32 ≤ row ∨ 32 ≤ col) (m : Memory) (c : Channel) :
    extract m row col c = none :=
  if_neg (by omega)

theorem extract_toNat (m : Memory) (row col : BitVec 5) (c : Channel) :
    extract m row.toNat col.toNat c
      = some (scale (Memory.readPixel m (pixelIndex row col)) c) := by
  rw [extract, if_pos ⟨row.isLt, col.isLt⟩, BitVec.ofNat_toNat, BitVec.ofNat_toNat,
    BitVec.setWidth_eq, BitVec.setWidth_eq]

/-- Settles O45: each lane's number is the pixel's shifted down by the selector's four-bit steps. -/
theorem scaleIsSeventeenTimesTheNibble : Obligations.ScaleIsSeventeenTimesTheNibble := by
  have hlane (p : Pixel) (c : Channel) :
      (scale p c).toNat = 17 * (p.toNat / 2 ^ (4 * Channel.sel c) % 16) := by
    rw [scale_toNat, nibble_toNat]
  intro p
  refine ⟨⟨?_, hlane p .green, hlane p .red⟩, scale_eq_append p⟩
  simpa [Channel.sel] using hlane p .blue

/-- Settles O46: the nibble is read back from either half, so equal bytes come from equal nibbles. -/
theorem scaleDependsOnItsLaneAlone : Obligations.ScaleDependsOnItsLaneAlone := fun p _ c =>
  ⟨scale_eq_scale_iff, scale_highHalf p c, scale_lowHalf p c, (scale_mask p c).symm⟩

/-- Settles O47: the selector's table is `channelOf`'s, and the extractor's guard is its domain. -/
theorem scalerRefusesOutsideItsDomain : Obligations.ScalerRefusesOutsideItsDomain :=
  ⟨fun _ => ⟨rfl, rfl, rfl, rfl⟩, fun m _ _ c h => extract_eq_none h m c, extract_toNat⟩

end Sys2Proof.Machine

/-! PROOFS. The traversal of the matrix (43 R191): a place has one number in the stream, which counts
whole rows, whole positions and the channel. -/

namespace Sys2Proof.Machine

theorem placeOf_y_toNat {n : Nat} (hn : n < 3072) : (placeOf n).y.toNat = n / 96 :=
  (BitVec.toNat_ofNat _ 5).trans (Nat.mod_eq_of_lt (by omega))

theorem placeOf_x_toNat (n : Nat) : (placeOf n).x.toNat = n % 96 / 3 :=
  (BitVec.toNat_ofNat _ 5).trans (Nat.mod_eq_of_lt (by omega))

theorem mod_three_cases (n : Nat) : n % 3 = 0 ∨ n % 3 = 1 ∨ n % 3 = 2 := by omega

theorem channelOf_mod_three (n : Nat) : channelOf (n % 3) = some (placeOf n).c := by
  obtain h | h | h := mod_three_cases n <;> simp [placeOf, channelOf, h]

theorem placeOf_sel (n : Nat) : Channel.sel (placeOf n).c = n % 3 := by
  obtain h | h | h := mod_three_cases n <;> simp [placeOf, Channel.sel, h]

/-- After red the next position of the row begins, or the next row after its last position (R191). -/
theorem placeOf_succ (n : Nat) : placeOf (n + 1) = (placeOf n).succ := by
  obtain h | h | h := mod_three_cases n
  case inr.inr =>
    have hnext : (n + 1) % 3 = 0 := by omega
    have hlast : BitVec.ofNat 5 (n % 96 / 3) = 31#5 ↔ n % 96 = 95 := by
      rw [← BitVec.toNat_inj, BitVec.toNat_ofNat, BitVec.toNat_ofNat]
      omega
    by_cases hrow : n % 96 = 95
    · have hwrap : (n + 1) % 96 / 3 = 0 := by omega
      have hdown : (n + 1) / 96 = n / 96 + 1 := by omega
      simp [placeOf, Place.succ, h, hnext, hrow, hwrap, hdown, BitVec.ofNat_add]
    · have hright : (n + 1) % 96 / 3 = n % 96 / 3 + 1 := by omega
      have hstay : (n + 1) / 96 = n / 96 := by omega
      simp [placeOf, Place.succ, h, hnext, hlast, hrow, hright, hstay, BitVec.ofNat_add]
  all_goals
    have hnext : (n + 1) % 3 = n % 3 + 1 := by omega
    have hright : (n + 1) % 96 / 3 = n % 96 / 3 := by omega
    have hstay : (n + 1) / 96 = n / 96 := by omega
    simp [placeOf, Place.succ, h, hnext, hright, hstay]

/-- The stream byte at a place: 96 to a row, 3 to a position (R191). -/
def Place.byteIndex (p : Place) : Nat := 96 * p.y.toNat + 3 * p.x.toNat + Channel.sel p.c

theorem channel_sel_lt (c : Channel) : Channel.sel c < 3 := by
  cases c <;> decide

theorem channel_sel_injective {c d : Channel} (h : Channel.sel c = Channel.sel d) : c = d := by
  revert h
  cases c <;> cases d <;> decide

theorem Place.byteIndex_lt (p : Place) : p.byteIndex < 3072 := by
  have hy := p.y.isLt
  have hx := p.x.isLt
  have hc := channel_sel_lt p.c
  unfold Place.byteIndex
  omega

theorem byteIndex_placeOf {n : Nat} (hn : n < 3072) : (placeOf n).byteIndex = n := by
  rw [Place.byteIndex, placeOf_y_toNat hn, placeOf_x_toNat, placeOf_sel]
  omega

theorem placeOf_byteIndex (p : Place) : placeOf p.byteIndex = p := by
  have hxlt := p.x.isLt
  have hclt := channel_sel_lt p.c
  have hindex : p.byteIndex = 96 * p.y.toNat + 3 * p.x.toNat + Channel.sel p.c := rfl
  have hy : (placeOf p.byteIndex).y = p.y := BitVec.eq_of_toNat_eq <| by
    rw [placeOf_y_toNat p.byteIndex_lt]
    omega
  have hx : (placeOf p.byteIndex).x = p.x := BitVec.eq_of_toNat_eq <| by
    rw [placeOf_x_toNat]
    omega
  have hc : (placeOf p.byteIndex).c = p.c := channel_sel_injective <| by
    rw [placeOf_sel]
    omega
  calc placeOf p.byteIndex
      = ⟨(placeOf p.byteIndex).x, (placeOf p.byteIndex).y, (placeOf p.byteIndex).c⟩ := rfl
    _ = p := by rw [hx, hy, hc]

/-- Settles O48: a place and its number in the stream determine each other. -/
theorem traversalVisitsEachChannelOnce : Obligations.TraversalVisitsEachChannelOnce := by
  refine ⟨fun n hn => ⟨placeOf_y_toNat hn, placeOf_x_toNat n, channelOf_mod_three n⟩, rfl,
    placeOf_succ, fun p => ⟨p.byteIndex, p.byteIndex_lt, placeOf_byteIndex p, ?_⟩⟩
  rintro n hn rfl
  exact (byteIndex_placeOf hn).symm

end Sys2Proof.Machine

/-! PROOFS. The write program (43 R180 to R201): the header ROM's fields, the counts of one WRITEBMP
summed over its 1538 triples, and its payloads put together. -/

namespace Sys2Proof.Machine

/-- Settles O49: no parameter is in the first six bytes or at offsets 10 to 33, and the last five
fields are parameters. -/
theorem headerRomIsTheListedBytes : Obligations.HeaderRomIsTheListedBytes := by
  refine ⟨by decide, fun h => ⟨?_, ?_, ?_, ?_, ?_⟩⟩ <;> rfl

/-! ### Sums over the triples (R190, R196) -/

/-- A sum over the frames of the write program, triple by triple. -/
theorem sum_map_writeProgram (g : Frame → Nat) (h : HdrParams) (m : Memory) :
    ((writeProgram h m).map g).sum
      = ((List.range 1538).map fun j => ((writeTriple h m j).map g).sum).sum := by
  rw [writeProgram_eq_triples, List.map_flatMap, List.flatMap_def, List.sum_flatten, List.map_map]
  rfl

/-- The first triple declares 54 bytes, every one after it 2 (R181). -/
theorem sum_map_declaredLen (n : Nat) :
    ((List.range (n + 1)).map fun j => (declaredLen (3 * j)).toNat).sum = 54 + 2 * n := by
  have hrest (k : Nat) : declaredLen (3 * k.succ) = 2 := declaredLen_triple (k + 1)
  rw [List.range_succ_eq_map, List.map_cons, List.map_map, List.sum_cons, Nat.mul_comm 2]
  simp only [Function.comp_def, hrest, List.map_const', List.sum_replicate_nat, List.length_range]
  rfl

/-- One WRITEBMP declares 3128 bytes (R196). -/
theorem sum_declaredLen :
    ((List.range 1538).map fun j => (declaredLen (3 * j)).toNat).sum = 3128 :=
  sum_map_declaredLen 1537

theorem declareFrame_declares (n : BitVec 16) : (declareFrame n).declares = n.toNat := by
  have hn := n.isLt
  simp only [declareFrame, Frame.declares, lo8, hi8, if_true, BitVec.extractLsb'_toNat,
    Nat.shiftRight_eq_div_pow]
  omega

theorem sum_declares_writeTriple (h : HdrParams) (m : Memory) (j : Nat) :
    ((writeTriple h m j).map Frame.declares).sum = (declaredLen (3 * j)).toNat := by
  have hdeclare := declareFrame_declares (declaredLen (3 * j))
  simp only [writeTriple, writeChunk, List.map_cons, List.map_nil, List.sum_cons, hdeclare]
  rfl

/-- A triple is 11 bytes of heads and length, and the payload it declares (R84, R181). -/
theorem framesBytes_writeTriple_length (h : HdrParams) (m : Memory) (j : Nat) :
    ((writeTriple h m j).map fun f => f.bytes.length).sum = 11 + (declaredLen (3 * j)).toNat := by
  have hpay := writePayload_length h m j
  simp only [writeTriple, writeChunk, List.map_cons, List.map_nil, List.sum_cons, List.sum_nil,
    Frame.bytes_length, declareFrame, writeFrame, updateFrame, hpay, List.length_cons,
    List.length_nil]
  omega

theorem framesBytes_writeProgram_length (h : HdrParams) (m : Memory) :
    (framesBytes (writeProgram h m)).length = 20046 := by
  rw [framesBytes, List.length_flatMap, sum_map_writeProgram]
  simp only [framesBytes_writeTriple_length, List.sum_map_add, sum_declaredLen, List.map_const',
    List.sum_replicate_nat, List.length_range]

/-! ### The write-data frames (R194, R195, R200) -/

/-- The write-data frames of the write program are the middle frames of its triples (R181). -/
theorem filter_writeData_writeProgram (h : HdrParams) (m : Memory) :
    (writeProgram h m).filter (fun f => f.op == 0x2D)
      = (List.range 1538).map fun j => writeFrame (writePayload h m (3 * j + 1)) := by
  rw [writeProgram_eq_triples, List.filter_flatMap, List.map_eq_flatMap]
  rfl

/-- Settles O51: each count is a sum over the triples, whose declared lengths sum to 3128. -/
theorem writeProgramCounts : Obligations.WriteProgramCounts := by
  intro h m
  refine ⟨writeProgram_length h m, framesBytes_writeProgram_length h m, ?_, ?_⟩
  · rw [filter_writeData_writeProgram, List.map_map, ← sum_declaredLen]
    exact congrArg List.sum (List.map_congr_left fun j _ => writePayload_length h m j)
  · simp only [sum_map_writeProgram, sum_declares_writeTriple, sum_declaredLen]

/-- Group by group is byte by byte (R194). -/
theorem flatMap_range_pairs {α : Type} (g : Nat → α) (n : Nat) :
    (List.range n).flatMap (fun k => [g (2 * k), g (2 * k + 1)]) = (List.range (2 * n)).map g := by
  induction n with
  | zero => rfl
  | succ n ih => simp [List.range_succ, ih, Nat.mul_succ]

theorem writePayload_groups (h : HdrParams) (m : Memory) :
    (List.range 1536).flatMap (fun k => writePayload h m (3 + 3 * k + 1)) = pixStream m := by
  rw [pixStream, Config.pixBytes, ← flatMap_range_pairs (pixByte m) 1536]
  exact List.flatMap_congr fun k hk => writePayload_group h m (List.mem_range.mp hk)

/-- The payloads of the triples in order: the header, the groups, the trailer (R200). -/
theorem flatMap_writePayload (h : HdrParams) (m : Memory) :
    (List.range 1538).flatMap (fun j => writePayload h m (3 * j + 1)) = body h m := by
  have hshift (k : Nat) : 3 * k.succ + 1 = 3 + 3 * k + 1 := by omega
  rw [List.range_succ, List.range_succ_eq_map, List.flatMap_append, List.flatMap_cons,
    List.flatMap_map, List.flatMap_singleton, body, ← writePayload_groups h m]
  simp only [hshift]
  rfl

/-- Settles O52: there is one write-data frame to a triple, with that triple's payload. -/
theorem writePayloadsAreTheFileBody : Obligations.WritePayloadsAreTheFileBody := by
  intro h m
  rw [filter_writeData_writeProgram]
  refine ⟨?_, by rw [List.length_map, List.length_range]⟩
  rw [List.flatMap_map]
  exact flatMap_writePayload h m

end Sys2Proof.Machine

/-! PROOFS. The write program on the machine (43 R181, R183, R190, R292): the frames of a triple byte by
byte, and the whole program under a willing environment, frame after frame to its last settle wait. -/

namespace Sys2Proof.Machine

open Sys2Proof.Claims

/-! ### The frames of a triple (R181, R183, R194, R195) -/

/-- The write frame of triple `j` is sent with that triple's payload (R181). -/
theorem Running.sends_writeData {s : State} {j : Nat} (hj : j < 1538)
    (h : Running s 6#3 (3 * j + 1)) :
    Sends .fWriteData s ([0x57, 0xAB, 0x2D] ++ writePayload s.hdr s.mem (3 * j + 1))
      Config.settleWrMs := by
  have ⟨_, _, _, hfi⟩ := h
  rw [← hfi]
  exact h.sends (frameAt_write hj) rfl

/-- Settles O21: the three payloads are those of triple 0, of triple `k + 1` and of triple 1537. -/
theorem writeFrameSendsHeaderGroupsTrailer : Obligations.WriteFrameSendsHeaderGroupsTrailer := by
  intro s
  refine ⟨fun h => h.sends_writeData (j := 0) (by decide), fun k hk h => ?_,
    fun h => h.sends_writeData (j := 1537) (by decide)⟩
  have hfi : 3 + 3 * k + 1 = 3 * (k + 1) + 1 := by omega
  have hsends := (hfi ▸ h).sends_writeData (by omega)
  rwa [← hfi, writePayload_group _ _ hk] at hsends

/-- Settles O22: the settle wait of a triple's write frame moves to that triple's update frame. -/
theorem updateFrameFollowsEveryWrite : Obligations.UpdateFrameFollowsEveryWrite := by
  intro s j hj
  refine ⟨fun h hp => ?_, fun h => h.sends (f := updateFrame) (frameAt_update hj) rfl⟩
  obtain ⟨_, hwrite, _⟩ := writerFramesSettleThenAdvance s j hj hp
  have ⟨_, hb, hop, hfi⟩ := h
  refine ⟨afterInnerSettle s, hwrite h, due_eq_some.mpr ⟨hb, ?_⟩, ?_⟩
  · show frameAt s.curOp (s.pos.fi + 1) = _
    rw [hop, hfi, frameAt_update hj]
  · simp [afterInnerSettle, hfi]

/-! ### A frame program from a frame on, under a willing environment (R29, R110, R292) -/

/-- The milliseconds of the settle waits after a list of frames (R86, R292). -/
def settleMsOf (fs : List Frame) : Nat := (fs.map fun f => settleMs f.op).sum

/-- The state after a whole frame that another frame follows: its bytes sent, its settle wait sat
through (R29, R110). -/
def State.frameDone (f : Frame) (s : State) : State :=
  { s with
    trace := s.trace ++ f.bytes
    pos := ⟨s.pos.fi + 1, 0, .send⟩
    settleCnt := 0
    waited := s.waited + settleCycles f.op }

/-- A frame that another frame follows runs to that frame's first byte (R29, R110). -/
theorem Running.runSteps_innerFrame {s : State} {op : BitVec 3} {fi : Nat} (h : Running s op fi)
    (hw : Willing s) (hbi : s.pos.bi = 0) (hp : s.pos.ph = .send) {i : Instr} {f : Frame}
    (hi : frameAt op fi = some i) (hnext : (frameAt op (fi + 1)).isSome = true)
    (hf : frameOf i s = some f) :
    runSteps (f.bytes.length + 1) s = .next (s.frameDone f) := by
  rw [runSteps_wholeFrame hw (h.due hi) hbi hp hf]
  obtain ⟨_, hb, rfl, rfl⟩ := h
  rw [expireSettle_inner (s := s.restSent f) hb hnext]
  simp [afterInnerSettle, State.restSent, State.frameDone, hbi]

/-- A frame done, and then the end of the operation, are the end of the operation with that frame's
bytes and settle wait. -/
theorem ended_frameDone (s : State) (f : Frame) (fi len : Nat) (fs : List Frame) :
    ended (s.frameDone f) fi len (framesBytes fs) (settleMsOf fs)
      = ended s fi len (framesBytes (f :: fs)) (settleMsOf (f :: fs)) := by
  simp [ended, State.frameDone, framesBytes, settleMsOf, settleCycles, Nat.add_mul, Nat.add_assoc]

/-- The frame the machine runs is the listed program's (R30). -/
theorem Running.frame_of_program {s : State} {op : BitVec 3} {fi : Nat} (h : Running s op fi)
    (hop : op ≠ 5#3) {name : List Byte} {f : Frame}
    (hf : (opProgram s.hdr s.mem name s.modeQ op.toNat)[fi]? = some f) :
    ∃ i, frameAt op fi = some i ∧ frameOf i s = some f := by
  obtain ⟨_, _, _, rfl⟩ := h
  rw [← machineRunsTheListedPrograms s name op hop] at hf
  exact Option.bind_eq_some_iff.mp hf

theorem head_of_drop {α : Type} {xs ys : List α} {x : α} {n : Nat} (h : xs.drop n = x :: ys) :
    xs[n]? = some x := by
  rw [← List.head?_drop, h, List.head?_cons]

theorem length_of_drop {α : Type} {xs ys : List α} {x : α} {n : Nat} (h : xs.drop n = x :: ys) :
    xs.length = n + 1 + ys.length := by
  have hlen := congrArg List.length h
  rw [List.length_drop, List.length_cons] at hlen
  omega

/-- From the first byte of a frame on, the frames its program has left, `fs` and a last one `f`, go out
in a step per byte and one per settle wait, and the operation ends. -/
theorem runSteps_restOfProgram {op : BitVec 3} (hop : op ≠ 5#3) {name : List Byte} {f : Frame}
    (fs : List Frame) :
    ∀ {s : State} {fi : Nat}, Willing s → Running s op fi → s.pos.bi = 0 → s.pos.ph = .send →
      (opProgram s.hdr s.mem name s.modeQ op.toNat).drop fi = fs ++ [f] →
      runSteps ((framesBytes (fs ++ [f])).length + (fs ++ [f]).length) s
        = .next (ended s (fi + fs.length) f.bytes.length (framesBytes (fs ++ [f]))
            (settleMsOf (fs ++ [f]))) := by
  induction fs with
  | nil =>
    intro s fi hw h hbi hp hrest
    obtain ⟨i, hi, hf⟩ := h.frame_of_program hop (head_of_drop hrest)
    have hnext : frameAt op (fi + 1) = none := by
      rw [← Option.not_isSome_iff_eq_none, frameAt_isSome_iff s.hdr s.mem name s.modeQ,
        length_of_drop hrest]
      simp
    have hlast := h.runSteps_lastFrame hw hbi hp hi hnext hf
    simpa [framesBytes, settleMsOf] using hlast
  | cons g fs ih =>
    intro s fi hw h hbi hp hrest
    obtain ⟨i, hi, hf⟩ := h.frame_of_program hop (head_of_drop hrest)
    have hnext : (frameAt op (fi + 1)).isSome = true := by
      rw [frameAt_isSome_iff s.hdr s.mem name s.modeQ, length_of_drop hrest]
      simp
    have hinner := h.runSteps_innerFrame hw hbi hp hi hnext hf
    have ⟨hr, hb, hcur, hfi⟩ := h
    have hdone : Running (s.frameDone g) op (fi + 1) := ⟨hr, hb, hcur, congrArg (· + 1) hfi⟩
    have hw' : Willing (s.frameDone g) := hw
    have htail : (opProgram s.hdr s.mem name s.modeQ op.toNat).drop (fi + 1) = fs ++ [f] := by
      rw [← List.tail_drop, hrest]
      rfl
    have hsteps : (framesBytes (g :: fs ++ [f])).length + (g :: fs ++ [f]).length
        = (g.bytes.length + 1) + ((framesBytes (fs ++ [f])).length + (fs ++ [f]).length) := by
      simp [framesBytes]
      omega
    rw [hsteps, runSteps_add _ hinner, ih hw' hdone rfl rfl htail, ended_frameDone]
    simp [Nat.add_assoc, Nat.add_comm 1]

/-! ### The whole of WRITEBMP (R190, R196) -/

/-- Each triple waits after each of its three frames (R86, R181). -/
theorem settleMsOf_writeProgram (h : HdrParams) (m : Memory) :
    settleMsOf (writeProgram h m)
      = 1538 * (Config.settleLenMs + Config.settleWrMs + Config.settlePtrMs) := by
  have htriple (j : Nat) : ((writeTriple h m j).map fun f => settleMs f.op).sum
      = Config.settleLenMs + Config.settleWrMs + Config.settlePtrMs := by
    simp [writeTriple, writeChunk, declareFrame, writeFrame, updateFrame, settleMs, Nat.add_assoc]
  simp only [settleMsOf, sum_map_writeProgram, htriple, List.map_const', List.sum_replicate_nat,
    List.length_range]

/-- The write program ends with the trailer's update frame (R190). -/
theorem writeProgram_last (h : HdrParams) (m : Memory) :
    ∃ fs, writeProgram h m = fs ++ [updateFrame] ∧ fs.length = 4613 := by
  obtain ⟨fs, hfs⟩ : ∃ fs, writeProgram h m = fs ++ [updateFrame] :=
    ⟨_, (List.append_assoc _ [declareFrame 2, writeFrame [0x00, 0x00]] [updateFrame]).symm⟩
  have hlen := writeProgram_length h m
  rw [hfs, List.length_append, List.length_singleton] at hlen
  exact ⟨fs, hfs, Nat.succ.inj hlen⟩

/-- Settles O59: from its first byte, what is left of the program is the whole of it. -/
theorem writebmpRunsTheWholeProgram : Obligations.WritebmpRunsTheWholeProgram := by
  intro s hw h hbi hp
  obtain ⟨fs, hfs, hlen⟩ := writeProgram_last s.hdr s.mem
  have hrun := runSteps_restOfProgram (by decide) (name := []) fs hw h hbi hp hfs
  rw [← hfs, framesBytes_writeProgram_length, writeProgram_length, settleMsOf_writeProgram,
    hlen] at hrun
  exact hrun

end Sys2Proof.Machine

/-! PROOFS. No state of the registers' invariant stops the machine (R199, R230): `pos` names a frame and a
byte of it, or a settle wait, so the frame due has a next transaction. -/

namespace Sys2Proof.Machine

theorem step_of_due_next {s t : State} {i : Instr} (hr : s.inp.rst = false) (hd : s.due = some i)
    (h : exec i s = .next t) : ∃ t, step s = .next t :=
  ⟨t.tick, by rw [step_of_due hr hd, h]; rfl⟩

/-- The frame due has a transaction wherever `pos` lies inside it (R29, R110, R145). -/
theorem step_runs_of_busy {s : State} (hr : s.inp.rst = false) (hb : s.busy = true)
    (hpos : PosInProgram s) : ∃ t, step s = .next t := by
  obtain ⟨_, _, i, hat, hwithin⟩ := hpos hb
  have hd : s.due = some i := due_eq_some.mpr ⟨hb, hat⟩
  cases hp : s.pos.ph with
  | settle => exact step_of_due_next hr hd (exec_due_settle hr hd hp)
  | send =>
    obtain rfl | ⟨f, hf⟩ := due_is_frame hd
    · obtain hlead | hlead := Nat.lt_or_ge s.pos.bi nameLead.length
      · exact step_of_due_next hr hd
          (exec_lead_byte hr hd hp (List.getElem?_eq_getElem hlead))
      · exact step_of_due_next hr hd (exec_name_loop hr hd hp hlead)
    · have hbi := (hwithin f hf).1 hp
      exact step_of_due_next hr hd (exec_due_byte hr hd hp hf (List.getElem?_eq_getElem hbi))

/-- Settles O44: an idle block answers a request or waits for one, and a busy one has its frame's next
transaction. -/
theorem invariantStatesNeverStop : Obligations.InvariantStatesNeverStop := by
  rintro s ⟨_, hpos, _⟩
  cases hr : s.inp.rst with
  | true => exact ⟨_, step_of_reset hr⟩
  | false =>
    cases hb : s.busy with
    | true => exact step_runs_of_busy hr hb hpos
    | false =>
      cases hw : s.reqOffer with
      | none => exact ⟨_, step_of_idle hr hb hw⟩
      | some w =>
        obtain ⟨t, ht⟩ := acceptRequest_runs (reqOp w) (reqArg w) s
        exact ⟨t.tick, by rw [step_of_request hr hb hw, ht]; rfl⟩

end Sys2Proof.Machine

/-! PROOFS. File Close (44): CLOSE is legal in `Writing` alone (R220), `Closed` has no legal request
(R224), and so an idle block in `Closed` stays as it is until block reset (R222, R224). -/

namespace Sys2Proof.Machine

/-- Only one state has CLOSE's legality code (R130, R220). -/
theorem code_eq_close_iff {st : Session} : Session.code st = 7#3 - 1#3 ↔ st = .writing := by
  cases st <;> decide

/-- No op is one above `Closed`: the only code that wraps to it is the reserved op 0 (R224). -/
theorem closed_has_no_legal_op (op : BitVec 3) :
    ¬(op ≠ 0#3 ∧ Session.code .closed = op - 1#3) := by
  revert op
  decide

/-- Settles O10: the refusal of an illegal request (O9), once for the state no op is legal in and once
for CLOSE outside its one legal state. -/
theorem closedRefusesEveryRequest : Obligations.ClosedRefusesEveryRequest := by
  refine ⟨fun op arg s hready hst => ?_, fun mode s hready hwriting hclosed => ?_⟩
  · have hillegal := closed_has_no_legal_op op
    rw [← hst] at hillegal
    simpa [hst] using illegalRequestIsRefusedAndNothingElse op arg s hready hillegal
  · have hillegal : ¬(7#3 ≠ 0#3 ∧ Session.code s.st = 7#3 - 1#3) :=
      fun ⟨_, hcode⟩ => hwriting (code_eq_close_iff.mp hcode)
    have hrefused := illegalRequestIsRefusedAndNothingElse 7#3 mode s hready hillegal
    rwa [if_neg (by decide), if_neg hclosed] at hrefused

/-- Settles O36: with nothing in progress an edge only waits or answers a request, and in `Closed` the
answer is a refusal, which writes none of the four. -/
theorem closedIsTerminal : Obligations.ClosedIsTerminal := by
  intro s t hr hidle hst h
  obtain ⟨hr', _⟩ | ⟨_, _, _, rfl⟩ | ⟨_, _, _, w, _, ⟨ho, _⟩ | ⟨c, _, rfl⟩⟩ | ⟨_, hb, _⟩ :=
    step_cases h
  · simp [hr] at hr'
  · exact ⟨hst, hidle, rfl, rfl⟩
  · obtain ⟨_, hopen, _⟩ := outcome_none ho
    exact absurd hst hopen
  · exact ⟨hst, hidle, rfl, rfl⟩
  · simp [hidle] at hb

end Sys2Proof.Machine

/-! PROOFS. Exceptions (60): an accepted request has the one outcome R234's table gives it, begun or refused,
and the reserved op 0 is refused in every session state (R233). -/

namespace Sys2Proof.Machine

/-- Settles O4: an acceptance branches on `outcome` alone, a function of the op and the session state,
whose 64 values the table lists. -/
theorem acceptedRequestHasTheTablesOutcome : Obligations.AcceptedRequestHasTheTablesOutcome := by
  refine ⟨fun op arg s hready => ?_, by decide⟩
  have hr : s.reqReady = true := (ready_iff_reqReady s).mp hready
  rw [exec_requestOf]
  cases ho : outcome op s.st with
  | none => exact acceptRequest_of_legal hr ho arg
  | some c => exact acceptRequest_of_refused hr ho arg

/-- Settles O5: op 0 is R234's first test, made before the session state is looked at. -/
theorem reservedOpIsRefusedInEveryState : Obligations.ReservedOpIsRefusedInEveryState :=
  fun arg s hready => acceptedRequestHasTheTablesOutcome.1 0#3 arg s hready

end Sys2Proof.Machine

/-! PROOFS. Block reset (70): under `rst` no handshake output is driven (R272), and the edge gives every
register its reset value and abandons the operation (R270, R271). -/

namespace Sys2Proof.Machine

/-- Each of the three outputs is forced to 0 by `rst` itself (R272). -/
theorem outputs_low_of_rst {s : State} (hr : s.inp.rst = true) :
    s.txValid = false ∧ s.nmReady = false ∧ s.reqReady = false := by
  refine ⟨?_, ?_, ?_⟩
  · simp [State.txValid, State.txOffer, hr]
  · simp [State.nmReady, hr]
  · simp [State.reqReady, hr]

/-- Settles O39: the edge is block reset and the next input levels, whose updates together are the state
written out. -/
theorem blockResetAbandonsEverything : Obligations.BlockResetAbandonsEverything := by
  intro s hr
  obtain ⟨htx, hnm, hreq⟩ := outputs_low_of_rst hr
  exact ⟨htx, hnm, hreq, step_of_reset hr⟩

end Sys2Proof.Machine
